-- ==== Sys2Proof/Word.lean ====
section
/-! DEFINITION. The block's two data widths (00_scope.md section 6, 10_state.md rules R23 and R25) and the blank sentinel. -/

namespace Sys2Proof

/-- A nibble, the width of one tube buffer element (rule R25). -/
abbrev Nibble := BitVec 4

/-- A byte, the width of a time field, of a Time Source register and of one transmitted byte (rules R23, R50). -/
abbrev Byte := BitVec 8

/-- The blank sentinel OFF, "all four bits set" (00_scope.md glossary; rule R105). -/
def OFF : Nibble := 0xF#4

end Sys2Proof
end

