-- ==== Sys2Proof/Config.lean ====
section
/-! DEFINITION. The implementation parameters of 00_scope.md rule R7, their well-formedness (rule R8), the configuration of
the hardware, and the free values: what the spec leaves to the environment or leaves open. -/

namespace Sys2Proof

/-- The field identifiers H, M and S (30_encoding.md rule R75; code 0b11 is reserved and has no constructor). -/
inductive Field where
  | h | m | s
deriving DecidableEq, Repr, Inhabited

/-- The digit identifiers TENS and ONES (30_encoding.md rule R75). -/
inductive Digit where
  | tens | ones
deriving DecidableEq, Repr, Inhabited

/-- `power_state`: one bit, OFF = 0 and ON = 1 (10_state.md rule R21). -/
inductive PowerState where
  | off | on
deriving DecidableEq, Repr, Inhabited

/-- The parameter TUBE_MAP of rule R7: a partial map from (field, digit) to a tube position.
Raw data: whether it is well formed is `TubeMap.wf`. -/
structure TubeMap where
  hTens : Option Nat
  hOnes : Option Nat
  mTens : Option Nat
  mOnes : Option Nat
  sTens : Option Nat
  sOnes : Option Nat
deriving DecidableEq, Repr

/-- The position of one digit of one field, `none` where the map does not hold the pair (rule R7). -/
def TubeMap.at (t : TubeMap) : Field → Digit → Option Nat
  | .h, .tens => t.hTens
  | .h, .ones => t.hOnes
  | .m, .tens => t.mTens
  | .m, .ones => t.mOnes
  | .s, .tens => t.sTens
  | .s, .ones => t.sOnes

/-- The positions in the range of the map. -/
def TubeMap.positions (t : TubeMap) : List Nat :=
  [t.hTens, t.hOnes, t.mTens, t.mOnes, t.sTens, t.sOnes].filterMap id

/-- Rule R8: every position is in 1..N. -/
def TubeMap.inRange (n : Nat) (t : TubeMap) : Bool :=
  t.positions.all fun p => decide (1 ≤ p ∧ p ≤ n)

/-- Rule R8: the map is injective, so no two (field, digit) pairs share a tube. -/
def TubeMap.injective (t : TubeMap) : Bool :=
  decide t.positions.Nodup

/-- Rule R8: for every field the map holds both digits or neither. -/
def TubeMap.paired (t : TubeMap) : Bool :=
  (t.hTens.isSome == t.hOnes.isSome) && (t.mTens.isSome == t.mOnes.isSome) && (t.sTens.isSome == t.sOnes.isSome)

/-- The parameters of rule R7, as raw data. Rule R8 says which of these are a configuration. -/
structure Parameters where
  /-- `N`, the tube count. -/
  n : Nat
  /-- `TUBE_MAP`. -/
  tubeMap : TubeMap
  /-- `RTC_OFF_H`. -/
  rtcOffH : Byte
  /-- `RTC_OFF_M`. -/
  rtcOffM : Byte
  /-- `RTC_OFF_S`. -/
  rtcOffS : Byte
  /-- `RTC_OFF_CTRL`. -/
  rtcOffCtrl : Byte
  /-- `CTRL_24H_VALUE`. -/
  ctrl24hValue : Byte
  /-- `SEED_ON_RESET`. -/
  seedOnReset : Bool
  /-- `SEED_H`. -/
  seedH : Byte
  /-- `SEED_M`. -/
  seedM : Byte
  /-- `SEED_S`. -/
  seedS : Byte
  /-- `SERIAL_MSB_FIRST`. -/
  serialMsbFirst : Bool
  /-- `POWER_RESET`. -/
  powerReset : PowerState
  /-- `COLLAB_CAN_FAIL`. -/
  collabCanFail : Bool
deriving DecidableEq, Repr

/-- The Time Source register offset of a field: RTC_OFF_H, RTC_OFF_M or RTC_OFF_S (44_render_sequencer.md rule R214). -/
def Parameters.rtcOff (p : Parameters) : Field → Byte
  | .h => p.rtcOffH
  | .m => p.rtcOffM
  | .s => p.rtcOffS

/-- Rule R8: the tube count is 2, 4 or 6. -/
def Parameters.tubeCountLegal (p : Parameters) : Bool :=
  p.n == 2 || p.n == 4 || p.n == 6

/-- Rule R8: the four RTC offsets are pairwise distinct. -/
def Parameters.offsetsDistinct (p : Parameters) : Bool :=
  decide [p.rtcOffH, p.rtcOffM, p.rtcOffS, p.rtcOffCtrl].Nodup

/-- Rule R8: when a configuration is well formed. -/
def Parameters.wf (p : Parameters) : Bool :=
  p.tubeCountLegal && p.tubeMap.inRange p.n && p.tubeMap.injective && p.tubeMap.paired && p.offsetsDistinct

/-- The reference configuration REF6 of rule R9.
Rule R9 keeps the RTC offsets and CTRL_24H_VALUE symbolic: they are arguments here. -/
def Parameters.ref6 (offH offM offS offCtrl ctrl : Byte) : Parameters :=
  { n := 6,
    tubeMap := ⟨some 1, some 2, some 3, some 4, some 5, some 6⟩,
    rtcOffH := offH, rtcOffM := offM, rtcOffS := offS, rtcOffCtrl := offCtrl, ctrl24hValue := ctrl,
    seedOnReset := true, seedH := 0x00#8, seedM := 0x00#8, seedS := 0x00#8,
    serialMsbFirst := true, powerReset := .on, collabCanFail := false }

/-- A configuration: parameters together with the proof that rule R8 holds of them.
"A model refuses an ill-formed configuration. It gives it no meaning": ill-formed parameters have no `Config`.
(The default values serve only to show that the type is inhabited.) -/
structure Config where
  par : Parameters := Parameters.ref6 0#8 1#8 2#8 3#8 0#8
  ok : par.wf = true := by decide
deriving DecidableEq, Repr, Inhabited

/-- Rule R8 as a decision: the configuration of well-formed parameters, `none` for ill-formed ones. -/
def Config.ofParameters (p : Parameters) : Option Config :=
  if h : p.wf = true then some ⟨p, h⟩ else none

/-- The parameters that rule R7 leaves OPEN for the hardware (N, TUBE_MAP, the RTC offsets, the control value, the seeds,
SERIAL_MSB_FIRST), as one well-formed but otherwise unknown configuration.
No body: nothing can be proved of them beyond rule R8 (DESIGN CHOICE, log entries 1 and 2). -/
opaque Config.openParameters : Config

/-- The hardware's own values of rule R7 in the three parameters that are not OPEN. -/
def Parameters.withHardwareValues (p : Parameters) : Parameters :=
  { p with seedOnReset := true, powerReset := .on, collabCanFail := false }

/-- The three values do not bear on rule R8. -/
theorem Parameters.wf_withHardwareValues (p : Parameters) : p.withHardwareValues.wf = p.wf := rfl

/-- The configuration of this hardware (rule R7): SEED_ON_RESET true, POWER_RESET ON, COLLAB_CAN_FAIL false, the rest open. -/
def Config.hardware : Config :=
  ⟨Config.openParameters.par.withHardwareValues,
    (Parameters.wf_withHardwareValues Config.openParameters.par).trans Config.openParameters.ok⟩

/-- FREE VALUE (no body). The event words that the Button Events collaborator delivers before a step of S:
"Any number of E steps, zero included, may stand between two S steps" (20_memory.md rule R60).
The argument is the draw counter. DESIGN CHOICE, log entry 3. -/
opaque Config.freeEvents : Nat → List Byte

/-- FREE VALUE (no body). The byte that one read of the Time Source returns (20_memory.md rule R56: "a free draw of the
oracle"). The argument is the draw counter. DESIGN CHOICE, log entry 4. -/
opaque Config.freeReadByte : Nat → Byte

/-- FREE VALUE (no body). Whether one collaborator access succeeds, "as a free draw", where COLLAB_CAN_FAIL is true
(44_render_sequencer.md rule R202). The argument is the draw counter. DESIGN CHOICE, log entry 5. -/
opaque Config.freeAccessOk : Nat → Bool

/-- FREE VALUE (no body). The write-back order of NOT_PROG, of which the spec says only that it "is never asked"
(44_render_sequencer.md rule R214). The argument is the draw counter. DESIGN CHOICE, log entry 10. -/
opaque Config.freeWriteBackOrder : Nat → Field × Field × Field

end Sys2Proof
end

