-- ==== Sys2Proof/Syntax.lean ====
section
/-! DEFINITION. The block's operations (spec/opcode_table.json, 30 rows: 6 events, 5 micro-ops, 19 sequencer steps) and the
three encoded forms of 30_encoding.md rule R70. -/

namespace Sys2Proof

/-- The buffer select `sel`: 0 is `tube_buf` and 1 is `blank_buf` (30_encoding.md rule R75). -/
inductive BufSel where
  | tube | blank
deriving DecidableEq, Repr

/-- One constructor per row of the opcode table. Operand fields have the widths of rules R72 and R75 and are unsigned, taken
as they stand (rule R77); a sampled level is a Bool, true for level 1. -/
inductive Instr where
  /-- PWR_PC L: pin-change event of the power group (rule R161). -/
  | pwrPc (level : Bool)
  /-- GRP_PC plus,minus,mode: pin-change event of the three-button group (rule R163). -/
  | grpPc (plus minus mode : Bool)
  /-- PWR_FALL (rule R164). -/
  | pwrFall
  /-- MODE_FALL (rule R165). -/
  | modeFall
  /-- PLUS_FALL (rule R167). -/
  | plusFall
  /-- MINUS_FALL (rule R168). -/
  | minusFall
  /-- TO_PLAIN b (rule R141). -/
  | toPlain (b : Byte)
  /-- TO_REG v (rule R142). -/
  | toReg (v : Byte)
  /-- TB_SET_DIGIT sel,pos,val (rule R121). -/
  | tbSetDigit (sel : BufSel) (pos : BitVec 3) (val : Nibble)
  /-- TB_CLEAR_ALL sel (rule R122). -/
  | tbClearAll (sel : BufSel)
  /-- PACK sel,count (rule R101). -/
  | pack (sel : BufSel) (count : BitVec 4)
  /-- INIT_CTRL (rule R203). -/
  | initCtrl
  /-- INIT_SEED_H (rule R204). -/
  | initSeedH
  /-- INIT_SEED_M (rule R205). -/
  | initSeedM
  /-- INIT_SEED_S (rule R206). -/
  | initSeedS
  /-- L_POWER (rule R207). -/
  | lPower
  /-- L_BLANK (rule R208). -/
  | lBlank
  /-- L_BLANK_TX (rule R209). -/
  | lBlankTx
  /-- L_PROG (rule R210). -/
  | lProg
  /-- L_LOAD_H (rule R211). -/
  | lLoadH
  /-- L_LOAD_M (rule R212). -/
  | lLoadM
  /-- L_LOAD_S (rule R213). -/
  | lLoadS
  /-- L_WB_1 (rule R215). -/
  | lWb1
  /-- L_WB_2 (rule R216). -/
  | lWb2
  /-- L_WB_3 (rule R217). -/
  | lWb3
  /-- L_CLEAR (rule R218). -/
  | lClear
  /-- L_MAP_H (rule R219). -/
  | lMapH
  /-- L_MAP_M (rule R220). -/
  | lMapM
  /-- L_MAP_S (rule R221). -/
  | lMapS
  /-- L_TX (rule R222). -/
  | lTx
deriving DecidableEq, Repr

/-- A word together with the port it is carried on: "A decoder always knows from the port which form it reads" (rule R70). -/
inductive PortWord where
  /-- An event word EV on the button-event port. -/
  | event (w : BitVec 8)
  /-- A micro-op word U on the internal port of a sub-block. -/
  | microOp (w : BitVec 16)
  /-- A step code, in `seq_pc`. -/
  | stepCode (c : BitVec 5)
deriving DecidableEq, Repr

/-- The operations issued by the event agent E (00_scope.md rule R6, 43_programming_fsm.md rule R160). -/
def Instr.isEvent : Instr → Bool
  | .pwrPc _ | .grpPc _ _ _ | .pwrFall | .modeFall | .plusFall | .minusFall => true
  | .toPlain _ | .toReg _ | .tbSetDigit _ _ _ | .tbClearAll _ | .pack _ _ => false
  | .initCtrl | .initSeedH | .initSeedM | .initSeedS | .lPower | .lBlank | .lBlankTx | .lProg => false
  | .lLoadH | .lLoadM | .lLoadS | .lWb1 | .lWb2 | .lWb3 | .lClear | .lMapH | .lMapM | .lMapS | .lTx => false

/-- The micro-ops of the three sub-blocks (30_encoding.md rule R75). -/
def Instr.isMicroOp : Instr → Bool
  | .toPlain _ | .toReg _ | .tbSetDigit _ _ _ | .tbClearAll _ | .pack _ _ => true
  | .pwrPc _ | .grpPc _ _ _ | .pwrFall | .modeFall | .plusFall | .minusFall => false
  | .initCtrl | .initSeedH | .initSeedM | .initSeedS | .lPower | .lBlank | .lBlankTx | .lProg => false
  | .lLoadH | .lLoadM | .lLoadS | .lWb1 | .lWb2 | .lWb3 | .lClear | .lMapH | .lMapM | .lMapS | .lTx => false

/-- The steps of the render sequencer S (44_render_sequencer.md rule R200). -/
def Instr.isStep (i : Instr) : Bool := !i.isEvent && !i.isMicroOp

end Sys2Proof
end

