-- ==== Sys2Proof/WellFormed.lean ====
section
/-! DEFINITION. Which words of each port are well formed: 30_encoding.md rule R73 (event words), rule R76 (micro-op words) and
rule R78 (step codes). Every operand of `Instr` has exactly the width of its field, so every `Instr` is well formed; what
can be ill formed is a word. The well-formedness of a configuration (00_scope.md rule R8) is `Parameters.wf` in Config.lean. -/

namespace Sys2Proof

/-- Rule R73: an event word is legal when its opcode is 0x1, 0x2 or 0x4 to 0x7 and every argument bit that rule R72 marks "0"
is zero: arg[3:1] for PWR_PC, arg[3] for GRP_PC, the whole argument for the decoded forms. -/
def eventWordLegal (w : BitVec 8) : Bool :=
  let op := w.toNat / 16
  let arg := w.toNat % 16
  (op == 1 && arg / 2 == 0) || (op == 2 && arg / 8 == 0)
    || ((op == 4 || op == 5 || op == 6 || op == 7) && arg == 0)

/-- Rule R76: a micro-op word is legal when its unit and operation are listed in rule R75 and the bits that rule R75 marks
"= 0" are zero: U[6:0] for TB_CLEAR_ALL, U[6:4] for PACK. -/
def microOpWordLegal (w : BitVec 16) : Bool :=
  let unit := w.toNat / 4096
  let op := w.toNat / 256 % 16
  let operand := w.toNat % 256
  (unit == 1 && (op == 0 || op == 1)) || (unit == 2 && op == 0) || (unit == 2 && op == 1 && operand % 128 == 0)
    || (unit == 3 && op == 0 && operand / 16 % 8 == 0)

/-- Rule R78: step codes 0x00 to 0x12 name a step; 0x13 to 0x1F are reserved. -/
def stepCodeLegal (c : BitVec 5) : Bool := decide (c.toNat ≤ 0x12)

/-- Whether a word is well formed on its port. -/
def PortWord.legal : PortWord → Bool
  | .event w => eventWordLegal w
  | .microOp w => microOpWordLegal w
  | .stepCode c => stepCodeLegal c

end Sys2Proof
end

