-- ==== Sys2Proof/Decode.lean ====
section
/-! DEFINITION. The decoder of the three encoded forms (30_encoding.md rules R70 to R78), rejecting by name, and after it the
encoder, written from the same tables. -/

namespace Sys2Proof

/-- Why a word does not decode. -/
inductive Reject where
  /-- Rule R73: the word raises IllegalEvent (60_exceptions.md rule R243). -/
  | illegalEvent (w : BitVec 8)
  /-- Rule R76: a reserved micro-op word. -/
  | reservedMicroOp (w : BitVec 16)
  /-- Rules R78 and R223: a reserved step code. -/
  | reservedStepCode (c : BitVec 5)
deriving DecidableEq, Repr

/-! Bit fields -/

/-- The event opcode, EV[7:4] (rule R71). -/
def eventOp (w : BitVec 8) : BitVec 4 := w.extractLsb' 4 4

/-- The event argument, EV[3:0] (rule R71). -/
def eventArg (w : BitVec 8) : BitVec 4 := w.extractLsb' 0 4

/-- The unit, U[15:12] (rule R74). -/
def microUnit (w : BitVec 16) : BitVec 4 := w.extractLsb' 12 4

/-- The operation within the unit, U[11:8] (rule R74). -/
def microOp (w : BitVec 16) : BitVec 4 := w.extractLsb' 8 4

/-- The operand, U[7:0] (rule R74). -/
def microOperand (w : BitVec 16) : BitVec 8 := w.extractLsb' 0 8

/-- The buffer select of an operand, U[7] (rule R75): 0 is `tube_buf`, 1 is `blank_buf`. -/
def operandSel (o : BitVec 8) : BufSel := if o.getLsbD 7 then .blank else .tube

/-! Step codes, rule R78 -/

/-- INIT_CTRL. -/
def codeInitCtrl : BitVec 5 := 0x00#5
/-- INIT_SEED_H. -/
def codeInitSeedH : BitVec 5 := 0x01#5
/-- INIT_SEED_M. -/
def codeInitSeedM : BitVec 5 := 0x02#5
/-- INIT_SEED_S. -/
def codeInitSeedS : BitVec 5 := 0x03#5
/-- L_POWER. -/
def codePower : BitVec 5 := 0x04#5
/-- L_BLANK. -/
def codeBlank : BitVec 5 := 0x05#5
/-- L_BLANK_TX. -/
def codeBlankTx : BitVec 5 := 0x06#5
/-- L_PROG. -/
def codeProg : BitVec 5 := 0x07#5
/-- L_LOAD_H. -/
def codeLoadH : BitVec 5 := 0x08#5
/-- L_LOAD_M. -/
def codeLoadM : BitVec 5 := 0x09#5
/-- L_LOAD_S. -/
def codeLoadS : BitVec 5 := 0x0A#5
/-- L_WB_1. -/
def codeWb1 : BitVec 5 := 0x0B#5
/-- L_WB_2. -/
def codeWb2 : BitVec 5 := 0x0C#5
/-- L_WB_3. -/
def codeWb3 : BitVec 5 := 0x0D#5
/-- L_CLEAR. -/
def codeClear : BitVec 5 := 0x0E#5
/-- L_MAP_H. -/
def codeMapH : BitVec 5 := 0x0F#5
/-- L_MAP_M. -/
def codeMapM : BitVec 5 := 0x10#5
/-- L_MAP_S. -/
def codeMapS : BitVec 5 := 0x11#5
/-- L_TX. -/
def codeTx : BitVec 5 := 0x12#5

/-! The decoder -/

/-- Event words, rules R72 and R73. -/
def decodeEvent (w : BitVec 8) : Except Reject Instr :=
  let arg := eventArg w
  match (eventOp w).toNat with
  | 0x1 => if arg.extractLsb' 1 3 = 0#3 then .ok (.pwrPc (arg.getLsbD 0)) else .error (.illegalEvent w)
  | 0x2 =>
    if arg.getLsbD 3 then .error (.illegalEvent w)
    else .ok (.grpPc (arg.getLsbD 0) (arg.getLsbD 1) (arg.getLsbD 2))
  | 0x4 => if arg = 0#4 then .ok .pwrFall else .error (.illegalEvent w)
  | 0x5 => if arg = 0#4 then .ok .modeFall else .error (.illegalEvent w)
  | 0x6 => if arg = 0#4 then .ok .plusFall else .error (.illegalEvent w)
  | 0x7 => if arg = 0#4 then .ok .minusFall else .error (.illegalEvent w)
  | _ => .error (.illegalEvent w)

/-- Micro-op words, rules R75 and R76. -/
def decodeMicroOp (w : BitVec 16) : Except Reject Instr :=
  let o := microOperand w
  match (microUnit w).toNat, (microOp w).toNat with
  | 0x1, 0x0 => .ok (.toPlain o)
  | 0x1, 0x1 => .ok (.toReg o)
  | 0x2, 0x0 => .ok (.tbSetDigit (operandSel o) (o.extractLsb' 4 3) (o.extractLsb' 0 4))
  | 0x2, 0x1 => if o.extractLsb' 0 7 = 0#7 then .ok (.tbClearAll (operandSel o)) else .error (.reservedMicroOp w)
  | 0x3, 0x0 =>
    if o.extractLsb' 4 3 = 0#3 then .ok (.pack (operandSel o) (o.extractLsb' 0 4)) else .error (.reservedMicroOp w)
  | _, _ => .error (.reservedMicroOp w)

/-- Step codes, rule R78. -/
def decodeStepCode (c : BitVec 5) : Except Reject Instr :=
  match c.toNat with
  | 0x00 => .ok .initCtrl
  | 0x01 => .ok .initSeedH
  | 0x02 => .ok .initSeedM
  | 0x03 => .ok .initSeedS
  | 0x04 => .ok .lPower
  | 0x05 => .ok .lBlank
  | 0x06 => .ok .lBlankTx
  | 0x07 => .ok .lProg
  | 0x08 => .ok .lLoadH
  | 0x09 => .ok .lLoadM
  | 0x0A => .ok .lLoadS
  | 0x0B => .ok .lWb1
  | 0x0C => .ok .lWb2
  | 0x0D => .ok .lWb3
  | 0x0E => .ok .lClear
  | 0x0F => .ok .lMapH
  | 0x10 => .ok .lMapM
  | 0x11 => .ok .lMapS
  | 0x12 => .ok .lTx
  | _ => .error (.reservedStepCode c)

/-- The decoder: the port says which form the word has (rule R70). -/
def decode : PortWord → Except Reject Instr
  | .event w => decodeEvent w
  | .microOp w => decodeMicroOp w
  | .stepCode c => decodeStepCode c

/-! The encoder -/

/-- The select bit of a buffer (rule R75). -/
def selBit : BufSel → BitVec 1
  | .tube => 0#1
  | .blank => 1#1

/-- An event word from its opcode and argument (rule R71). -/
def eventWord (op arg : BitVec 4) : PortWord := .event (op ++ arg)

/-- A micro-op word from its unit, operation and operand (rule R74). -/
def microOpWord (unit op : BitVec 4) (operand : BitVec 8) : PortWord := .microOp (unit ++ op ++ operand)

/-- The word of an instruction, on its port (rules R72, R75 and R78). -/
def encode : Instr → PortWord
  | .pwrPc l => eventWord 0x1#4 (0#3 ++ BitVec.ofBool l)
  | .grpPc p m c => eventWord 0x2#4 (0#1 ++ BitVec.ofBool c ++ BitVec.ofBool m ++ BitVec.ofBool p)
  | .pwrFall => eventWord 0x4#4 0#4
  | .modeFall => eventWord 0x5#4 0#4
  | .plusFall => eventWord 0x6#4 0#4
  | .minusFall => eventWord 0x7#4 0#4
  | .toPlain b => microOpWord 0x1#4 0x0#4 b
  | .toReg v => microOpWord 0x1#4 0x1#4 v
  | .tbSetDigit sel pos val => microOpWord 0x2#4 0x0#4 (selBit sel ++ pos ++ val)
  | .tbClearAll sel => microOpWord 0x2#4 0x1#4 (selBit sel ++ 0#7)
  | .pack sel count => microOpWord 0x3#4 0x0#4 (selBit sel ++ 0#3 ++ count)
  | .initCtrl => .stepCode codeInitCtrl
  | .initSeedH => .stepCode codeInitSeedH
  | .initSeedM => .stepCode codeInitSeedM
  | .initSeedS => .stepCode codeInitSeedS
  | .lPower => .stepCode codePower
  | .lBlank => .stepCode codeBlank
  | .lBlankTx => .stepCode codeBlankTx
  | .lProg => .stepCode codeProg
  | .lLoadH => .stepCode codeLoadH
  | .lLoadM => .stepCode codeLoadM
  | .lLoadS => .stepCode codeLoadS
  | .lWb1 => .stepCode codeWb1
  | .lWb2 => .stepCode codeWb2
  | .lWb3 => .stepCode codeWb3
  | .lClear => .stepCode codeClear
  | .lMapH => .stepCode codeMapH
  | .lMapM => .stepCode codeMapM
  | .lMapS => .stepCode codeMapS
  | .lTx => .stepCode codeTx

/-! Words without a port, as spec/opcode_table.json numbers their bits -/

/-- The port and word that the table's `nbits` low bits `w` stand for.
A width of 5 or less is a step code, a width over 8 is a micro-op word.
Eight bits are the width of an event word, and also that of a step code in whole bytes: values that name a step (rule R78) are
read as the step, all others as an event word.
So the 8-bit words 0x10 and 0x11, each of which the table gives to two rows, are L_MAP_M and L_MAP_S and not PWR_PC
(DESIGN CHOICE, log entry 11). -/
def tablePortWord (nbits w : Nat) : Option PortWord :=
  if nbits ≤ 5 then
    if w < 32 then some (.stepCode (BitVec.ofNat 5 w)) else none
  else if nbits ≤ 8 then
    if w ≤ 0x12 then some (.stepCode (BitVec.ofNat 5 w))
    else if w < 256 then some (.event (BitVec.ofNat 8 w))
    else none
  else
    if w < 65536 then some (.microOp (BitVec.ofNat 16 w)) else none

/-- The instruction that the decoder reads from a word as the opcode table numbers it. -/
def decodeTableWord (nbits w : Nat) : Option Instr :=
  match tablePortWord nbits w with
  | some c =>
    match decode c with
    | .ok i => some i
    | .error _ => none
  | none => none

end Sys2Proof
end

