-- ==== Sys2Proof/Machine/State.lean ====
section
/-! DEFINITION. The state of the block (10_state.md rule R20), the access history (20_memory.md rule R60), the model's own
fields for the environment and for the internal port, the reasons a step can stop, and the state after reset. -/

namespace Sys2Proof.Machine

/-- `prog_state` (10_state.md rule R22). All four codes of its two bits are legal. -/
inductive ProgState where
  | notProg | editH | editM | editS
deriving DecidableEq, Repr

/-- One entry of the access history (20_memory.md rule R60). -/
inductive Access where
  /-- `RtcRead(off) → b`. -/
  | rtcRead (off b : Byte)
  /-- `RtcWrite(off, b)`. -/
  | rtcWrite (off b : Byte)
  /-- `Transmit(bytes, SERIAL_MSB_FIRST)`. -/
  | transmit (bytes : List Byte) (msbFirst : Bool)
deriving DecidableEq, Repr

/-- One turn of the total order of steps (20_memory.md rule R60), as far as a state fixes it. -/
inductive Turn where
  /-- An E step: the Button Events collaborator delivers an event word (43_programming_fsm.md rule R160). -/
  | event (w : BitVec 8)
  /-- A step of S: the step named by `seq_pc` (44_render_sequencer.md rule R200). -/
  | sequencer
  /-- The reset input (70_reset_and_hazards.md rule R270). -/
  | reset
  /-- THE MODEL'S OWN: one micro-op word on a sub-block's internal port, taken alone.
  In the block only the sequencer issues micro-ops, inside its steps (30_encoding.md rule R76). DESIGN CHOICE, log entry 7. -/
  | microOp (w : BitVec 16)
deriving DecidableEq, Repr

/-- The causes of an error record (60_exceptions.md rule R241), codes 1 to 4. -/
inductive Cause where
  | packCount | posRange | illegalEvent | collabFail
deriving DecidableEq, Repr

/-- THE MODEL'S OWN: what the last micro-op taken alone answered on its internal port (30_encoding.md rule R75, column
"result"). DESIGN CHOICE, log entry 7. -/
inductive PortResult where
  /-- No result: TB_SET_DIGIT, TB_CLEAR_ALL, or no micro-op yet. -/
  | nothing
  /-- The 8-bit plain value of TO_PLAIN, or the register byte of TO_REG. -/
  | byte (b : Byte)
  /-- The bytes of PACK. -/
  | bytes (bs : List Byte)
  /-- PackingError: the micro-op returned nothing. -/
  | packingError (c : Cause)
deriving DecidableEq, Repr

/-- Why the machine stops with a fault: never.
The block "has no trap mechanism" (60_exceptions.md rule R240) and there are "no fatal-abort paths": an error is recorded
and both agents go on, so this type has no constructor (DEDUCED, log entry 18). -/
inductive Fault where
deriving DecidableEq, Repr

/-- Why a step is refused. -/
inductive Refusal where
  /-- Raised by an arm of exec for an instruction that has no meaning yet. Safe. No arm raises it. -/
  | notModelled (mnemonic : String)
  /-- Raised by the decoder for a reserved micro-op word (30_encoding.md rule R76: "A model refuses one"). Safe: the sequencer
  never issues one. -/
  | reservedMicroOp (w : BitVec 16)
  /-- Raised by the decoder for a reserved code in `seq_pc` (44_render_sequencer.md rule R223: "it treats a step at one as a
  refusal"). Safe: never reached from reset. -/
  | reservedStepCode (c : BitVec 5)
deriving DecidableEq, Repr

/-- The state. The first field is the model's argument (00_scope.md rule R7), which no step changes; the next thirteen are
"exactly" the block's state (10_state.md rule R20); then the access history (20_memory.md rule R60); the last five are the
model's own: the internal port's answer and the environment. -/
structure State where
  /-- The configuration, "fixed for the life of an instance" (rule R7). DESIGN CHOICE, log entry 1. -/
  cfg : Config
  /-- `power_state` (rule R21). -/
  powerState : PowerState
  /-- `prog_state` (rule R22). -/
  progState : ProgState
  /-- `hours` (rule R23). -/
  hours : Byte
  /-- `minutes` (rule R23). -/
  minutes : Byte
  /-- `seconds` (rule R23). -/
  seconds : Byte
  /-- `tube_buf`: N elements, position p at index p - 1 (rule R25). -/
  tubeBuf : List Nibble
  /-- `blank_buf`: N elements (rule R26). -/
  blankBuf : List Nibble
  /-- `last_tx`: the bytes of the most recent Transmit (rule R27). -/
  lastTx : List Byte
  /-- `seq_pc`: the code of the next sequencer step (rule R28). -/
  seqPc : BitVec 5
  /-- `p_snap`: the sequencer's copy of `power_state` (rule R29). -/
  pSnap : PowerState
  /-- `q_snap`: the sequencer's copy of `prog_state` (rule R29). -/
  qSnap : ProgState
  /-- `err_flags`: bit 0 PACK_ERR, bit 1 ILL_EV, bit 2 COLLAB_FAIL (rule R30). -/
  errFlags : BitVec 3
  /-- `err_cause`: the cause code of the first error since reset (rule R30). -/
  errCause : BitVec 4
  /-- The access history, in execution order, the first access first (rule R60).
  An access that fails is not in it (DEDUCED, log entry 8). -/
  history : List Access
  /-- THE MODEL'S OWN: what the last micro-op taken alone answered. DESIGN CHOICE, log entry 7. -/
  portResult : PortResult
  /-- THE MODEL'S OWN, environment: the coming turns as far as this state fixes them, the next first; beyond them the turns
  are free. DESIGN CHOICE, log entry 3. -/
  turns : List Turn
  /-- THE MODEL'S OWN, environment: the bytes that the Time Source will answer, as far as this state fixes them, the next
  first; beyond them the bytes are free. DESIGN CHOICE, log entry 4. -/
  reads : List Byte
  /-- THE MODEL'S OWN, environment: whether the coming collaborator accesses succeed where they can fail, as far as this state
  fixes it, the next first; beyond it that is free. DESIGN CHOICE, log entry 5. -/
  accessOks : List Bool
  /-- THE MODEL'S OWN: how many free values have been drawn. DESIGN CHOICE, log entry 6. -/
  draws : Nat
deriving DecidableEq, Repr

/-- The state of an instance of configuration `c` right after reset (10_state.md rule R33, 70_reset_and_hazards.md rule R270).
The environment's fields fix nothing, so every turn, read and access is free (DESIGN CHOICE, log entries 3 to 7). -/
def State.resetOf (c : Config) : State :=
  { cfg := c,
    powerState := c.par.powerReset,
    progState := .notProg,
    hours := 0#8, minutes := 0#8, seconds := 0#8,
    tubeBuf := List.replicate c.par.n OFF,
    blankBuf := List.replicate c.par.n OFF,
    lastTx := [],
    seqPc := codeInitCtrl,
    pSnap := .off, qSnap := .notProg,
    errFlags := 0#3, errCause := 0#4,
    history := [],
    portResult := .nothing,
    turns := [], reads := [], accessOks := [], draws := 0 }

/-- The machine right after reset: the hardware's configuration, whose OPEN parameters are unknown (rule R7). -/
def State.reset : State := State.resetOf Config.hardware

end Sys2Proof.Machine
end

