-- ==== Sys2Proof/Machine/Flags.lean ====
section
/-! DEFINITION. The error flags and cause (10_state.md rule R30, 60_exceptions.md rules R241 to R243), the bit encodings of the
power and programming states (rules R21, R22), and the two observation ports (rule R31). -/

namespace Sys2Proof.Machine

/-- The cause codes of rule R241. -/
def causeCode : Cause → BitVec 4
  | .packCount => 1#4
  | .posRange => 2#4
  | .illegalEvent => 3#4
  | .collabFail => 4#4

/-- The flag that a cause sets: `err_flags[0]` PACK_ERR, `err_flags[1]` ILL_EV or `err_flags[2]` COLLAB_FAIL (rule R241). -/
def causeFlag : Cause → BitVec 3
  | .packCount => 0b001#3
  | .posRange => 0b001#3
  | .illegalEvent => 0b010#3
  | .collabFail => 0b100#3

/-- `err_flags` after an error: its flag is set, the others stay (rules R242, R243). -/
def errFlagsAfter (c : Cause) (flags : BitVec 3) : BitVec 3 := flags ||| causeFlag c

/-- `err_cause` after an error: `if err_cause == 0: err_cause <- c` (rules R242, R243). -/
def errCauseAfter (c : Cause) (cause : BitVec 4) : BitVec 4 := if cause = 0#4 then causeCode c else cause

/-- The encoding of `power_state` and `p_snap`: OFF = 0, ON = 1 (rules R21, R29). -/
def powerBit : PowerState → BitVec 1
  | .off => 0#1
  | .on => 1#1

/-- The encoding of `prog_state` and `q_snap` (rules R22, R29). -/
def progBits : ProgState → BitVec 2
  | .notProg => 0b00#2
  | .editH => 0b01#2
  | .editM => 0b10#2
  | .editS => 0b11#2

/-- The STATUS port: [0] POWER, [2:1] PROG, [3] PACK_ERR, [4] ILL_EV, [5] COLLAB_FAIL, [7:6] hardwired 0 (rule R31). -/
def State.statusPort (s : State) : BitVec 8 :=
  0#2 ++ s.errFlags ++ progBits s.progState ++ powerBit s.powerState

/-- The ERR_CAUSE port: ERR_CAUSE[3:0] = `err_cause` (rule R31). -/
def State.errCausePort (s : State) : BitVec 4 := s.errCause

end Sys2Proof.Machine
end

