-- ==== Sys2Proof/Machine/Operands.lean ====
section
/-! DEFINITION. The operand forms: the time fields by their identifier (10_state.md rule R23), the buffers by their select
(41_tube_buffer_controller.md rule R120), the conversions of `bcd_register_converter` (rules R141, R142, R146), the placement of
`digit_packer` (rule R101) and the write-back order (rule R214). -/

namespace Sys2Proof.Machine

/-- TO_PLAIN: `10 * b[7:4] + b[3:0]`, 0 to 165; no bit is masked (42_bcd_register_converter.md rule R141). -/
def toPlain (b : Byte) : Byte :=
  BitVec.ofNat 8 (10 * (b.extractLsb' 4 4).toNat + (b.extractLsb' 0 4).toNat)

/-- DIGITS, the tens nibble: `trunc_4(v div 10)` (rule R146). -/
def tensDigit (v : Byte) : Nibble := BitVec.ofNat 4 (v.toNat / 10)

/-- DIGITS, the ones nibble: `v mod 10` (rule R146). -/
def onesDigit (v : Byte) : Nibble := BitVec.ofNat 4 (v.toNat % 10)

/-- TO_REG: the byte with `trunc_4(v div 10)` in its high nibble and `v mod 10` in its low nibble (rule R142). -/
def toReg (v : Byte) : Byte := BitVec.ofNat 4 (v.toNat / 10) ++ BitVec.ofNat 4 (v.toNat % 10)

/-- Reads a time field. -/
def State.field (s : State) : Field → Byte
  | .h => s.hours
  | .m => s.minutes
  | .s => s.seconds

/-- Writes a time field. -/
def State.setField (f : Field) (v : Byte) (s : State) : State :=
  match f with
  | .h => { s with hours := v }
  | .m => { s with minutes := v }
  | .s => { s with seconds := v }

/-- The buffer that `sel` chooses (rule R120). -/
def State.buf (s : State) : BufSel → List Nibble
  | .tube => s.tubeBuf
  | .blank => s.blankBuf

/-- Replaces the buffer that `sel` chooses. -/
def State.setBuf (sel : BufSel) (b : List Nibble) (s : State) : State :=
  match sel with
  | .tube => { s with tubeBuf := b }
  | .blank => { s with blankBuf := b }

/-- One turn of the loop of rule R101, for the 0-based buffer index `i`: an even index fills a low nibble, an odd index is
ORed into the high nibble of the same output byte.
(An index outside the buffer reads OFF. There is none below `count` where the buffer has N elements: DESIGN CHOICE, log entry 14.) -/
def packElement (buf : List Nibble) (out : List Byte) (i : Nat) : List Byte :=
  let e : Byte := (buf.getD i OFF).setWidth 8
  if i % 2 = 0 then out.set (i / 2) e
  else out.set ((i - 1) / 2) (out.getD ((i - 1) / 2) 0#8 ||| e <<< 4)

/-- The output of PACK on the first `count` elements of a buffer: `ceil(count/2)` bytes, each starting at 0x00, filled by the
loop of rule R101. -/
def packBytes (buf : List Nibble) (count : Nat) : List Byte :=
  (List.range count).foldl (packElement buf) (List.replicate ((count + 1) / 2) 0#8)

/-- The write-back order `wb_order(q_snap)` (rule R214): the active field first, then the other two in the order hours,
minutes, seconds. It "is never asked of NOT_PROG", and is free there (DESIGN CHOICE, log entry 10). -/
def State.writeBackOrder (s : State) : Field × Field × Field :=
  match s.qSnap with
  | .editH => (.h, .m, .s)
  | .editM => (.m, .h, .s)
  | .editS => (.s, .h, .m)
  | .notProg => Config.freeWriteBackOrder s.draws

end Sys2Proof.Machine
end

