-- ==== Sys2Proof/Machine/Ops.lean ====
section
/-! DEFINITION. The named operations: raising an error (60_exceptions.md rules R240 to R244), the tube buffer operations and
PACK (rules R101, R121, R122), the collaborator accesses (20_memory.md rules R56, R57, 44_render_sequencer.md rules R201, R202),
whose turn is next (20_memory.md rule R60), and reset as an input (70_reset_and_hazards.md rule R270). -/

namespace Sys2Proof.Machine

/-! ## The sequencer's step register and the history -/

/-- `seq_pc <- code` (00_scope.md section 6, `goto`). -/
def State.goto (code : BitVec 5) (s : State) : State := { s with seqPc := code }

/-- `last_tx <- bytes` (rule R201). -/
def State.setLastTx (bytes : List Byte) (s : State) : State := { s with lastTx := bytes }

/-- Adds one access at the end of the history (rule R60). -/
def State.record (a : Access) (s : State) : State := { s with history := s.history ++ [a] }

/-! ## Errors: what stands in the place of taking an exception -/

/-- `raise`: the error is recorded in `err_flags` and `err_cause`, "and no control transfer to a handler takes place" (rule
R240); it writes nothing else (rules R242, R243). -/
def State.raise (c : Cause) (s : State) : State :=
  { s with errFlags := errFlagsAfter c s.errFlags, errCause := errCauseAfter c s.errCause }

/-- The render fail-safe: a sequencer step that raises PackingError abandons the iteration with `seq_pc <- L_BLANK` (rule
R244). There is no return from an error: the sequencer goes on at L_BLANK. -/
def State.failSafe (c : Cause) (s : State) : State := (s.raise c).goto codeBlank

/-- What a word that does not decode does on its port: an illegal event word raises IllegalEvent and performs no action (rule
R243); a reserved micro-op word or step code is refused (rules R76, R223; DESIGN CHOICE, log entry 13). -/
def reject (r : Reject) (s : State) : Host.Outcome State Fault Refusal :=
  match r with
  | .illegalEvent _ => .next (s.raise .illegalEvent)
  | .reservedMicroOp w => .refused (.reservedMicroOp w)
  | .reservedStepCode c => .refused (.reservedStepCode c)

/-! ## The tube buffers and the packer -/

/-- TB_SET_DIGIT (rule R121): writes element `pos - 1`, or raises POS_RANGE when `pos < 1` or `pos > N`. -/
def State.setDigit (sel : BufSel) (pos : Nat) (val : Nibble) (s : State) : Except Cause State :=
  if pos < 1 ∨ pos > s.cfg.par.n then .error .posRange
  else .ok (s.setBuf sel ((s.buf sel).set (pos - 1) val))

/-- TB_CLEAR_ALL (rule R122): every element of the buffer becomes OFF, in one atomic step. -/
def State.clearAll (sel : BufSel) (s : State) : State :=
  s.setBuf sel (List.replicate s.cfg.par.n OFF)

/-- PACK (rule R101): the bytes, or PACK_COUNT when `count > N`. -/
def State.packed (sel : BufSel) (count : Nat) (s : State) : Except Cause (List Byte) :=
  if count > s.cfg.par.n then .error .packCount else .ok (packBytes (s.buf sel) count)

/-! ## The collaborators -/

/-- Whether the next collaborator access succeeds (rule R202): always where COLLAB_CAN_FAIL is false; else "a free draw", taken
from the environment's list while that lasts. -/
def State.drawOk (s : State) : Bool × State :=
  if s.cfg.par.collabCanFail then
    match s.accessOks with
    | ok :: rest => (ok, { s with accessOks := rest })
    | [] => (Config.freeAccessOk s.draws, { s with draws := s.draws + 1 })
  else (true, s)

/-- The byte that the Time Source answers next (rule R56): "a free draw of the oracle", taken from the environment's list
while that lasts. -/
def State.drawByte (s : State) : Byte × State :=
  match s.reads with
  | b :: rest => (b, { s with reads := rest })
  | [] => (Config.freeReadByte s.draws, { s with draws := s.draws + 1 })

/-- A failed access in a step INIT_*: the error is recorded and `seq_pc` "is left unchanged, so the step is retried" (rule
R202 (a) to (c)). -/
def State.retryAfterFail (s : State) : State := s.raise .collabFail

/-- A failed access in any other step: the error is recorded and "the iteration is abandoned with `seq_pc <- L_POWER`" (rule
R202 (a), (b), (d)). -/
def State.abandonAfterFail (s : State) : State := (s.raise .collabFail).goto codePower

/-- `RtcWrite(off, b)` and then `seq_pc <- code` (rule R57); on a failed access, `onFail`. -/
def State.rtcWriteThen (off b : Byte) (code : BitVec 5) (onFail : State → State) (s : State) : State :=
  let d := s.drawOk
  if d.1 then (d.2.record (.rtcWrite off b)).goto code else onFail d.2

/-- `b <- RtcRead(off); field f <- TO_PLAIN(b)` and then `seq_pc <- code` (rules R56, R211 to R213). -/
def State.rtcLoadThen (f : Field) (code : BitVec 5) (s : State) : State :=
  let d := s.drawOk
  if d.1 then
    let r := d.2.drawByte
    ((r.2.record (.rtcRead (s.cfg.par.rtcOff f) r.1)).setField f (toPlain r.1)).goto code
  else d.2.abandonAfterFail

/-- `Transmit(bytes)` and then `seq_pc <- L_POWER` (rules R201, R209, R222). -/
def State.transmitThenPower (bytes : List Byte) (s : State) : State :=
  let d := s.drawOk
  if d.1 then ((d.2.record (.transmit bytes s.cfg.par.serialMsbFirst)).setLastTx bytes).goto codePower
  else d.2.abandonAfterFail

/-! ## The shared parts of the sequencer's steps -/

/-- `bytes <- PACK sel, N; Transmit(bytes); seq_pc <- L_POWER` (rules R209, R222), with the fail-safe of rule R244. -/
def State.packAndTransmit (sel : BufSel) (s : State) : State :=
  match s.packed sel s.cfg.par.n with
  | .ok bytes => s.transmitThenPower bytes
  | .error c => s.failSafe c

/-- `(t, o) <- DIGITS(v)`, the two TB_SET_DIGIT of rule R219 and `seq_pc <- code`, with the fail-safe of rule R244.
Where the second position is out of range the first digit is not written either: the state after a failing step "is the
state before it, plus the error record" (rule R240; DEDUCED, log entry 9). -/
def State.placeDigits (tens ones : Nat) (v : Byte) (code : BitVec 5) (s : State) : State :=
  match s.setDigit .tube tens (tensDigit v) with
  | .error c => s.failSafe c
  | .ok s1 =>
    match s1.setDigit .tube ones (onesDigit v) with
    | .error c => s.failSafe c
    | .ok s2 => s2.goto code

/-- The step L_MAP_f (rules R219 to R221): nothing is read and only `seq_pc` is written when TUBE_MAP does not hold the field.
(Rule R8 excludes a field with one digit mapped: DESIGN CHOICE, log entry 14.) -/
def State.mapField (f : Field) (code : BitVec 5) (s : State) : State :=
  match s.cfg.par.tubeMap.at f .tens, s.cfg.par.tubeMap.at f .ones with
  | some tens, some ones => s.placeDigits tens ones (s.field f) code
  | _, _ => s.goto code

/-- A write-back step (rules R215 to R217): `v <- field f; RtcWrite(RTC_OFF_f, TO_REG(v))` and then `seq_pc <- code`. -/
def State.writeBack (f : Field) (code : BitVec 5) (s : State) : State :=
  s.rtcWriteThen (s.cfg.par.rtcOff f) (toReg (s.field f)) code State.abandonAfterFail

/-! ## Turns -/

/-- Whose turn is next, and the state with that turn taken from the environment's list (rule R60).
Where the list is at its end, the Button Events collaborator delivers any finite number of words, zero included, and then S
steps (DESIGN CHOICE, log entry 3). -/
def State.nextTurn (s : State) : Turn × State :=
  match s.turns with
  | t :: rest => (t, { s with turns := rest })
  | [] =>
    match Config.freeEvents s.draws with
    | [] => (.sequencer, { s with draws := s.draws + 1 })
    | w :: ws => (.event w, { s with turns := ws.map Turn.event ++ [.sequencer], draws := s.draws + 1 })

/-- The reset input (rule R270): every element of the block at its reset value and the history empty; the configuration and
the environment go on (DESIGN CHOICE, log entry 15). -/
def State.applyReset (s : State) : State :=
  { State.resetOf s.cfg with turns := s.turns, reads := s.reads, accessOks := s.accessOks, draws := s.draws }

/-- Puts a word where the next step takes its instruction from: an event or micro-op word as the next turn; a step code in
`seq_pc`, with the next turn the sequencer's. -/
def State.placeWord (c : PortWord) (s : State) : State :=
  match c with
  | .event w => { s with turns := .event w :: s.turns }
  | .microOp w => { s with turns := .microOp w :: s.turns }
  | .stepCode code => { s with seqPc := code, turns := .sequencer :: s.turns }

/-- `placeWord` for a word as spec/opcode_table.json numbers its bits; a word that is no port's leaves the state as it is. -/
def State.placeTableWord (nbits w : Nat) (s : State) : State :=
  match tablePortWord nbits w with
  | some c => s.placeWord c
  | none => s

end Sys2Proof.Machine
end

