-- ==== Sys2Proof/Machine/Events.lean ====
section
/-! DEFINITION. The event agent E (43_programming_fsm.md): the mode cycle, the adjusts with carry and borrow, and the six event
words. Each is one atomic step (rule R160). -/

namespace Sys2Proof.Machine

/-- A time as three mathematical integers, as inside one adjust action (rule R173). -/
structure Hms where
  h : Int
  m : Int
  s : Int
deriving DecidableEq, Repr

/-- `NOT power_state` (rule R164). -/
def flipPower : PowerState → PowerState
  | .off => .on
  | .on => .off

/-- The successor function `next` (rule R166). -/
def nextProg : ProgState → ProgState
  | .notProg => .editH
  | .editH => .editM
  | .editM => .editS
  | .editS => .notProg

/-- CARRY_CASCADE, each test made once, in this order (rule R169). The hours wrap sets 0. -/
def carryCascade (t : Hms) : Hms :=
  let t1 : Hms := if t.s ≥ 60 then { t with s := t.s - 60, m := t.m + 1 } else t
  let t2 : Hms := if t1.m ≥ 60 then { t1 with m := t1.m - 60, h := t1.h + 1 } else t1
  if t2.h ≥ 24 then { t2 with h := 0 } else t2

/-- BORROW_CASCADE, each test made once, in this order (rule R170). -/
def borrowCascade (t : Hms) : Hms :=
  let t1 : Hms := if t.s < 0 then { t with s := 59, m := t.m - 1 } else t
  let t2 : Hms := if t1.m < 0 then { t1 with m := 59, h := t1.h - 1 } else t1
  if t2.h < 0 then { t2 with h := 23 } else t2

/-- `d` added to the field that the editing state chooses (rule R171). -/
def bumpField (q : ProgState) (d : Int) (t : Hms) : Hms :=
  match q with
  | .notProg => t
  | .editH => { t with h := t.h + d }
  | .editM => { t with m := t.m + d }
  | .editS => { t with s := t.s + d }

/-- `(h, m, s) <- (hours, minutes, seconds)`, as integers (rule R167). -/
def State.hms (s : State) : Hms := ⟨s.hours.toNat, s.minutes.toNat, s.seconds.toNat⟩

/-- `(hours, minutes, seconds) <- (zext_8(h), zext_8(m), zext_8(s))` (rule R167). -/
def State.storeHms (t : Hms) (s : State) : State :=
  { s with hours := BitVec.ofInt 8 t.h, minutes := BitVec.ofInt 8 t.m, seconds := BitVec.ofInt 8 t.s }

/-- ACT_POWER_TOGGLE (rule R164). -/
def State.actPowerToggle (s : State) : State := { s with powerState := flipPower s.powerState }

/-- ACT_CYCLE_MODE (rule R165): no effect in NOT_PROG with the power OFF. -/
def State.actCycleMode (s : State) : State :=
  if s.progState = .notProg ∧ s.powerState = .off then s else { s with progState := nextProg s.progState }

/-- ACT_ADJUST_PLUS (rule R167): no effect in NOT_PROG; the power state is not read (rule R172). -/
def State.actAdjustPlus (s : State) : State :=
  if s.progState = .notProg then s else s.storeHms (carryCascade (bumpField s.progState 1 s.hms))

/-- ACT_ADJUST_MINUS (rule R168): no effect in NOT_PROG; the power state is not read (rule R172). -/
def State.actAdjustMinus (s : State) : State :=
  if s.progState = .notProg then s else s.storeHms (borrowCascade (bumpField s.progState (-1) s.hms))

/-- PWR_PC L (rule R161): level 0 is the falling-edge-action branch, level 1 the rising-edge-ignore branch. -/
def execPwrPc (level : Bool) (s : State) : Host.Outcome State Fault Refusal :=
  .next (if level then s else s.actPowerToggle)

/-- GRP_PC plus,minus,mode (rule R163): each button whose level is 0 performs its action, in the order AdjustPlus, AdjustMinus,
CycleMode, each on the state the previous one left. -/
def execGrpPc (plus minus mode : Bool) (s : State) : Host.Outcome State Fault Refusal :=
  let s1 := if plus then s else s.actAdjustPlus
  let s2 := if minus then s1 else s1.actAdjustMinus
  .next (if mode then s2 else s2.actCycleMode)

/-- PWR_FALL (rule R164). -/
def execPwrFall (s : State) : Host.Outcome State Fault Refusal := .next s.actPowerToggle

/-- MODE_FALL (rule R165). -/
def execModeFall (s : State) : Host.Outcome State Fault Refusal := .next s.actCycleMode

/-- PLUS_FALL (rule R167). -/
def execPlusFall (s : State) : Host.Outcome State Fault Refusal := .next s.actAdjustPlus

/-- MINUS_FALL (rule R168). -/
def execMinusFall (s : State) : Host.Outcome State Fault Refusal := .next s.actAdjustMinus

end Sys2Proof.Machine
end

