-- ==== Sys2Proof/Machine/MicroOps.lean ====
section
/-! DEFINITION. The micro-ops of the three sub-blocks, each taken alone on its internal port (30_encoding.md rule R75): the
answer goes to the model's own field `portResult` (DESIGN CHOICE, log entry 7). The sequencer's steps use the same shared operations. -/

namespace Sys2Proof.Machine

/-- Sets the internal port's answer. -/
def State.answer (r : PortResult) (s : State) : State := { s with portResult := r }

/-- TO_PLAIN b (42_bcd_register_converter.md rule R141). -/
def execToPlain (b : Byte) (s : State) : Host.Outcome State Fault Refusal :=
  .next (s.answer (.byte (toPlain b)))

/-- TO_REG v (rule R142). -/
def execToReg (v : Byte) (s : State) : Host.Outcome State Fault Refusal :=
  .next (s.answer (.byte (toReg v)))

/-- TB_SET_DIGIT sel,pos,val (41_tube_buffer_controller.md rule R121). -/
def execTbSetDigit (sel : BufSel) (pos : BitVec 3) (val : Nibble) (s : State) : Host.Outcome State Fault Refusal :=
  .next (match s.setDigit sel pos.toNat val with
    | .ok t => t.answer .nothing
    | .error c => (s.raise c).answer (.packingError c))

/-- TB_CLEAR_ALL sel (rule R122). -/
def execTbClearAll (sel : BufSel) (s : State) : Host.Outcome State Fault Refusal :=
  .next ((s.clearAll sel).answer .nothing)

/-- PACK sel,count (40_digit_packer.md rule R101). -/
def execPack (sel : BufSel) (count : BitVec 4) (s : State) : Host.Outcome State Fault Refusal :=
  .next (match s.packed sel count.toNat with
    | .ok bytes => s.answer (.bytes bytes)
    | .error c => (s.raise c).answer (.packingError c))

end Sys2Proof.Machine
end

