-- ==== Sys2Proof/Machine/Sequencer.lean ====
section
/-! DEFINITION. The render sequencer S (44_render_sequencer.md rules R203 to R222): one atomic step per step code. -/

namespace Sys2Proof.Machine

/-- INIT_CTRL (rule R203): selects 24-hour mode in the Time Source. -/
def execInitCtrl (s : State) : Host.Outcome State Fault Refusal :=
  .next (s.rtcWriteThen s.cfg.par.rtcOffCtrl s.cfg.par.ctrl24hValue
    (if s.cfg.par.seedOnReset then codeInitSeedH else codePower) State.retryAfterFail)

/-- INIT_SEED_H (rule R204). -/
def execInitSeedH (s : State) : Host.Outcome State Fault Refusal :=
  .next (s.rtcWriteThen s.cfg.par.rtcOffH s.cfg.par.seedH codeInitSeedM State.retryAfterFail)

/-- INIT_SEED_M (rule R205). -/
def execInitSeedM (s : State) : Host.Outcome State Fault Refusal :=
  .next (s.rtcWriteThen s.cfg.par.rtcOffM s.cfg.par.seedM codeInitSeedS State.retryAfterFail)

/-- INIT_SEED_S (rule R206). -/
def execInitSeedS (s : State) : Host.Outcome State Fault Refusal :=
  .next (s.rtcWriteThen s.cfg.par.rtcOffS s.cfg.par.seedS codePower State.retryAfterFail)

/-- L_POWER (rule R207): samples `power_state` and chooses the path. -/
def execLPower (s : State) : Host.Outcome State Fault Refusal :=
  .next (State.goto (if s.powerState = .off then codeBlank else codeProg) { s with pSnap := s.powerState })

/-- L_BLANK (rule R208): TB_CLEAR_ALL 1. -/
def execLBlank (s : State) : Host.Outcome State Fault Refusal :=
  .next ((s.clearAll .blank).goto codeBlankTx)

/-- L_BLANK_TX (rule R209): packs and sends the blank pattern. -/
def execLBlankTx (s : State) : Host.Outcome State Fault Refusal := .next (s.packAndTransmit .blank)

/-- L_PROG (rule R210): samples `prog_state` and chooses the sub-path. -/
def execLProg (s : State) : Host.Outcome State Fault Refusal :=
  .next (State.goto (if s.progState = .notProg then codeLoadH else codeWb1) { s with qSnap := s.progState })

/-- L_LOAD_H (rule R211). -/
def execLLoadH (s : State) : Host.Outcome State Fault Refusal := .next (s.rtcLoadThen .h codeLoadM)

/-- L_LOAD_M (rule R212). -/
def execLLoadM (s : State) : Host.Outcome State Fault Refusal := .next (s.rtcLoadThen .m codeLoadS)

/-- L_LOAD_S (rule R213). -/
def execLLoadS (s : State) : Host.Outcome State Fault Refusal := .next (s.rtcLoadThen .s codeClear)

/-- L_WB_1 (rule R215): writes back the active field. -/
def execLWb1 (s : State) : Host.Outcome State Fault Refusal := .next (s.writeBack s.writeBackOrder.1 codeWb2)

/-- L_WB_2 (rule R216): writes back the first of the other two fields. -/
def execLWb2 (s : State) : Host.Outcome State Fault Refusal := .next (s.writeBack s.writeBackOrder.2.1 codeWb3)

/-- L_WB_3 (rule R217): writes back the second of the other two fields. -/
def execLWb3 (s : State) : Host.Outcome State Fault Refusal := .next (s.writeBack s.writeBackOrder.2.2 codeClear)

/-- L_CLEAR (rule R218): TB_CLEAR_ALL 0. -/
def execLClear (s : State) : Host.Outcome State Fault Refusal :=
  .next ((s.clearAll .tube).goto codeMapH)

/-- L_MAP_H (rule R219). -/
def execLMapH (s : State) : Host.Outcome State Fault Refusal := .next (s.mapField .h codeMapM)

/-- L_MAP_M (rule R220). -/
def execLMapM (s : State) : Host.Outcome State Fault Refusal := .next (s.mapField .m codeMapS)

/-- L_MAP_S (rule R221). -/
def execLMapS (s : State) : Host.Outcome State Fault Refusal := .next (s.mapField .s codeTx)

/-- L_TX (rule R222): packs the logical buffer and sends it. -/
def execLTx (s : State) : Host.Outcome State Fault Refusal := .next (s.packAndTransmit .tube)

end Sys2Proof.Machine
end

