-- ==== Sys2Proof/Machine/Dispatch.lean ====
section
/-! DEFINITION. One arm per instruction. -/

namespace Sys2Proof.Machine

/-- What each instruction does. -/
def exec (i : Instr) (s : State) : Host.Outcome State Fault Refusal :=
  match i with
  | .pwrPc level => Sys2Proof.Machine.execPwrPc level s
  | .grpPc plus minus mode => Sys2Proof.Machine.execGrpPc plus minus mode s
  | .pwrFall => Sys2Proof.Machine.execPwrFall s
  | .modeFall => Sys2Proof.Machine.execModeFall s
  | .plusFall => Sys2Proof.Machine.execPlusFall s
  | .minusFall => Sys2Proof.Machine.execMinusFall s
  | .toPlain b => Sys2Proof.Machine.execToPlain b s
  | .toReg v => Sys2Proof.Machine.execToReg v s
  | .tbSetDigit sel pos val => Sys2Proof.Machine.execTbSetDigit sel pos val s
  | .tbClearAll sel => Sys2Proof.Machine.execTbClearAll sel s
  | .pack sel count => Sys2Proof.Machine.execPack sel count s
  | .initCtrl => Sys2Proof.Machine.execInitCtrl s
  | .initSeedH => Sys2Proof.Machine.execInitSeedH s
  | .initSeedM => Sys2Proof.Machine.execInitSeedM s
  | .initSeedS => Sys2Proof.Machine.execInitSeedS s
  | .lPower => Sys2Proof.Machine.execLPower s
  | .lBlank => Sys2Proof.Machine.execLBlank s
  | .lBlankTx => Sys2Proof.Machine.execLBlankTx s
  | .lProg => Sys2Proof.Machine.execLProg s
  | .lLoadH => Sys2Proof.Machine.execLLoadH s
  | .lLoadM => Sys2Proof.Machine.execLLoadM s
  | .lLoadS => Sys2Proof.Machine.execLLoadS s
  | .lWb1 => Sys2Proof.Machine.execLWb1 s
  | .lWb2 => Sys2Proof.Machine.execLWb2 s
  | .lWb3 => Sys2Proof.Machine.execLWb3 s
  | .lClear => Sys2Proof.Machine.execLClear s
  | .lMapH => Sys2Proof.Machine.execLMapH s
  | .lMapM => Sys2Proof.Machine.execLMapM s
  | .lMapS => Sys2Proof.Machine.execLMapS s
  | .lTx => Sys2Proof.Machine.execLTx s

end Sys2Proof.Machine
end

