-- ==== Sys2Proof/Machine/Step.lean ====
section
/-! DEFINITION. One step of the machine: one atomic step of one agent (00_scope.md rule R6, 20_memory.md rule R60), or the
reset input. -/

namespace Sys2Proof.Machine

/-- Decodes a word as its port says (30_encoding.md rule R70) and runs it. -/
def runWord (c : PortWord) (s : State) : Host.Outcome State Fault Refusal :=
  match decode c with
  | .ok i => exec i s
  | .error r => reject r s

/-- One step: the turn that is next, taken.
An E step runs the delivered event word (43_programming_fsm.md rule R160), a step of S runs the step named by `seq_pc`
(44_render_sequencer.md rule R200). -/
def step (s : State) : Host.Outcome State Fault Refusal :=
  let p := s.nextTurn
  match p.1 with
  | .event w => runWord (.event w) p.2
  | .sequencer => runWord (.stepCode p.2.seqPc) p.2
  | .microOp w => runWord (.microOp w) p.2
  | .reset => .next p.2.applyReset

/-- `s` with the instruction of a table word where `step` takes its next instruction from (DESIGN CHOICE, log entry 12). -/
def State.withFetchWord (s : State) (nbits w : Nat) : State := s.placeTableWord nbits w

end Sys2Proof.Machine
end

