-- ==== Sys2Proof/Safety.lean ====
section
/-! DEFINITION. What a safe state is (10_state.md rule R34 and the sentences of the spec about states that no run reaches), and a
safe run: one that goes on for ever. -/

namespace Sys2Proof

open Sys2Proof.Machine

/-- Rule R175: every time field is in 0..165. -/
def FieldsBounded (s : State) : Prop :=
  s.hours.toNat ≤ 165 ∧ s.minutes.toNat ≤ 165 ∧ s.seconds.toNat ≤ 165

/-- The valid domain: hours 0..23, minutes and seconds 0..59 (10_state.md rule R23). -/
def ValidTime (s : State) : Prop :=
  s.hours.toNat ≤ 23 ∧ s.minutes.toNat ≤ 59 ∧ s.seconds.toNat ≤ 59

/-- Both buffers have N elements (rules R25, R26) and "every element of `blank_buf` is OFF" (rule R34). -/
def BuffersOk (s : State) : Prop :=
  s.tubeBuf.length = s.cfg.par.n ∧ s.blankBuf = List.replicate s.cfg.par.n OFF

/-- Rule R34: "`err_cause` = 0 if and only if `err_flags` = 0"; a recorded cause is one of rule R241 and its flag is set.
PACK_ERR is never set: no step of the sequencer raises PackingError with a well-formed configuration (rule R244).
COLLAB_FAIL is never set where COLLAB_CAN_FAIL is false (rule R202). -/
def ErrorRecordOk (s : State) : Prop :=
  (s.errCause = 0#4 ↔ s.errFlags = 0#3)
    ∧ (s.errCause = 0#4 ∨ ∃ c, s.errCause = causeCode c ∧ s.errFlags &&& causeFlag c = causeFlag c)
    ∧ s.errFlags.getLsbD 0 = false
    ∧ (s.cfg.par.collabCanFail = false → s.errFlags.getLsbD 2 = false)

/-- Where the sequencer can be: never at a reserved code (rule R223), at INIT_SEED_* only if SEED_ON_RESET (rule R204), on the
powered-off path only with the OFF snapshot and on the powered-on path only with the ON one (rules R207, R29), at L_LOAD_*
only with the NOT_PROG snapshot and at L_WB_* only with an editing one (rules R210, R214). -/
def PathOk (s : State) : Prop :=
  s.seqPc.toNat ≤ 0x12
    ∧ (0x01 ≤ s.seqPc.toNat → s.seqPc.toNat ≤ 0x03 → s.cfg.par.seedOnReset = true)
    ∧ (0x05 ≤ s.seqPc.toNat → s.seqPc.toNat ≤ 0x06 → s.pSnap = .off)
    ∧ (0x07 ≤ s.seqPc.toNat → s.pSnap = .on)
    ∧ (0x08 ≤ s.seqPc.toNat → s.seqPc.toNat ≤ 0x0A → s.qSnap = .notProg)
    ∧ (0x0B ≤ s.seqPc.toNat → s.seqPc.toNat ≤ 0x0D → s.qSnap ≠ .notProg)

/-- An access that the block may make under a configuration: reads only of the three time offsets (rule R56), writes only of
those and of the control offset, there only of CTRL_24H_VALUE (rules R57, R203), transmits only of `ceil(N/2)` bytes with the
flag SERIAL_MSB_FIRST (rule R256). -/
def accessAllowed (p : Parameters) : Access → Prop
  | .rtcRead off _ => off = p.rtcOffH ∨ off = p.rtcOffM ∨ off = p.rtcOffS
  | .rtcWrite off b =>
    (off = p.rtcOffCtrl ∧ b = p.ctrl24hValue) ∨ off = p.rtcOffH ∨ off = p.rtcOffM ∨ off = p.rtcOffS
  | .transmit bytes msb => bytes.length = (p.n + 1) / 2 ∧ msb = p.serialMsbFirst

/-- Whether an access writes the control offset. -/
def isCtrlWrite (p : Parameters) : Access → Bool
  | .rtcWrite off _ => off == p.rtcOffCtrl
  | .rtcRead _ _ => false
  | .transmit _ _ => false

/-- Whether an access is a transmit. -/
def isTransmit : Access → Bool
  | .transmit _ _ => true
  | .rtcRead _ _ => false
  | .rtcWrite _ _ => false

/-- The bytes of the most recent Transmit of a history, empty where there is none (10_state.md rule R27). -/
def lastTransmitted (h : List Access) : List Byte :=
  h.foldl (fun acc a => match a with
    | .transmit bytes _ => bytes
    | .rtcRead _ _ => acc
    | .rtcWrite _ _ => acc) []

/-- The history holds only allowed accesses, the control offset was written exactly once after INIT_CTRL and not before (rules
R203, R257), and `last_tx` is what was transmitted last (rule R27). -/
def HistoryOk (s : State) : Prop :=
  (∀ a ∈ s.history, accessAllowed s.cfg.par a)
    ∧ (s.history.filter (isCtrlWrite s.cfg.par)).length = (if s.seqPc = codeInitCtrl then 0 else 1)
    ∧ s.lastTx = lastTransmitted s.history

/-- A turn of the block: of E, of S, or the reset input; not the model's own turn of a micro-op taken alone (DESIGN CHOICE, log entry 7). -/
def turnIsBlocks : Turn → Bool
  | .event _ => true
  | .sequencer => true
  | .reset => true
  | .microOp _ => false

/-- The environment leaves the internal ports to the sequencer: "the micro-ops are issued only by the sequencer"
(92_eei_decisions.md D39). -/
def TurnsOk (s : State) : Prop := ∀ t ∈ s.turns, turnIsBlocks t = true

/-- The invariant of the block. -/
structure Inv (s : State) : Prop where
  fields : FieldsBounded s
  buffers : BuffersOk s
  errorRecord : ErrorRecordOk s
  path : PathOk s
  history : HistoryOk s
  turns : TurnsOk s

/-- A run of `n` steps that meets no fault and no refusal. -/
def SafeRun (n : Nat) (s : State) : Prop := ∃ t, core.run n s = .next t

end Sys2Proof
end

