-- ==== Sys2Proof/Certificates/Slice0/Obligations.lean ====
section
/-! DEFINITION. The statements for the provers. Each docstring names the rules of spec/ that the statement formalises. -/

open Sys2Proof Sys2Proof.Machine

/-! ## Words the statements share -/

namespace Sys2Proof.Claims

/-- The next collaborator access of `s` succeeds and leaves `s1` (44_render_sequencer.md rule R202): always, and drawing nothing,
where COLLAB_CAN_FAIL is false; else by a draw, from the environment's list or free. -/
def AccessSucceeds (s s1 : State) : Prop :=
  (s.cfg.par.collabCanFail = false ∧ s1 = s)
    ∨ (s.cfg.par.collabCanFail = true ∧ ∃ rest, s.accessOks = true :: rest ∧ s1 = { s with accessOks := rest })
    ∨ (s.cfg.par.collabCanFail = true ∧ s.accessOks = [] ∧ Config.freeAccessOk s.draws = true
        ∧ s1 = { s with draws := s.draws + 1 })

/-- The next collaborator access of `s` fails and leaves `s1` (rule R202): only where COLLAB_CAN_FAIL is true. -/
def AccessFails (s s1 : State) : Prop :=
  s.cfg.par.collabCanFail = true
    ∧ ((∃ rest, s.accessOks = false :: rest ∧ s1 = { s with accessOks := rest })
      ∨ (s.accessOks = [] ∧ Config.freeAccessOk s.draws = false ∧ s1 = { s with draws := s.draws + 1 }))

/-- The Time Source answers the byte `b` next and leaves `s1` (20_memory.md rule R56): any byte, from the environment's list or
free. -/
def TimeSourceAnswers (s : State) (b : Byte) (s1 : State) : Prop :=
  (∃ rest, s.reads = b :: rest ∧ s1 = { s with reads := rest })
    ∨ (s.reads = [] ∧ b = Config.freeReadByte s.draws ∧ s1 = { s with draws := s.draws + 1 })

/-- What E never touches (60_exceptions.md rule R248) and what is no state of the block that E could touch. -/
def SequencerUntouched (s t : State) : Prop :=
  t.seqPc = s.seqPc ∧ t.pSnap = s.pSnap ∧ t.qSnap = s.qSnap ∧ t.tubeBuf = s.tubeBuf ∧ t.blankBuf = s.blankBuf
    ∧ t.lastTx = s.lastTx ∧ t.history = s.history ∧ t.portResult = s.portResult ∧ t.cfg = s.cfg

/-- The environment's fields and the draw counter are the same. -/
def EnvironmentUntouched (s t : State) : Prop :=
  t.turns = s.turns ∧ t.reads = s.reads ∧ t.accessOks = s.accessOks ∧ t.draws = s.draws

/-- The shared state of 10_state.md rule R24 is the same. -/
def SameShared (s t : State) : Prop :=
  t.powerState = s.powerState ∧ t.progState = s.progState ∧ t.hours = s.hours ∧ t.minutes = s.minutes
    ∧ t.seconds = s.seconds

/-- The time of day in seconds. -/
def secondsOfDay (s : State) : Nat := s.hours.toNat * 3600 + s.minutes.toNat * 60 + s.seconds.toNat

/-- How many seconds one adjust moves the clock: the unit of the field that the editing state chooses (43_programming_fsm.md
rules R171, R176). -/
def adjustUnit : ProgState → Nat
  | .notProg => 0
  | .editH => 3600
  | .editM => 60
  | .editS => 1

/-- The placement law of 40_digit_packer.md rule R102, with the output length of rule R103. -/
def PlacedNibbles (buf : List Nibble) (count : Nat) (out : List Byte) : Prop :=
  out.length = (count + 1) / 2
    ∧ ∀ k, k < (count + 1) / 2 → ∃ b, out[k]? = some b
        ∧ some (b.extractLsb' 0 4) = buf[2 * k]?
        ∧ (2 * k + 1 < count → some (b.extractLsb' 4 4) = buf[2 * k + 1]?)
        ∧ (count ≤ 2 * k + 1 → b.extractLsb' 4 4 = 0#4)

/-- `t` is `s` after the error record of a cause code and flag (60_exceptions.md rules R242, R243), and nothing else. -/
def withError (flag : BitVec 3) (code : BitVec 4) (s : State) : State :=
  { s with errFlags := s.errFlags ||| flag, errCause := if s.errCause = 0#4 then code else s.errCause }

/-- The steps that read the Time Source (20_memory.md rule R56). -/
def readSteps : List Instr := [.lLoadH, .lLoadM, .lLoadS]

/-- The steps that write the Time Source (20_memory.md rule R57). -/
def writeSteps : List Instr := [.initCtrl, .initSeedH, .initSeedM, .initSeedS, .lWb1, .lWb2, .lWb3]

/-- The steps that transmit (44_render_sequencer.md rules R201, R209, R222). -/
def transmitSteps : List Instr := [.lBlankTx, .lTx]

/-- The steps that access a collaborator. -/
def accessSteps : List Instr := readSteps ++ writeSteps ++ transmitSteps

/-- The instruction performs ACT_ADJUST_PLUS or ACT_ADJUST_MINUS (43_programming_fsm.md rules R163, R167, R168). -/
def Adjusts (i : Instr) : Prop :=
  i = .plusFall ∨ i = .minusFall ∨ ∃ plus minus mode, i = .grpPc plus minus mode ∧ (plus = false ∨ minus = false)

/-- The instruction, run in a block of N tubes, raises PackingError (60_exceptions.md rule R241, codes 1 and 2). -/
def RaisesPackingError (n : Nat) (i : Instr) : Prop :=
  (∃ sel pos val, i = .tbSetDigit sel pos val ∧ (pos.toNat = 0 ∨ n < pos.toNat))
    ∨ ∃ sel count, i = .pack sel count ∧ n < count.toNat

/-- The instruction accesses a collaborator, and accesses can fail (44_render_sequencer.md rule R202). -/
def MayFail (c : Config) (i : Instr) : Prop := c.par.collabCanFail = true ∧ i ∈ accessSteps

/-- `n` turns of the sequencer. -/
def sequencerTurns (n : Nat) : List Turn := List.replicate n Turn.sequencer

end Sys2Proof.Claims

open Sys2Proof.Claims

/-! ## Encodings -/

/-- Every instruction's word decodes to it, with every operand at every value. 30_encoding.md rules R70 to R78. -/
def Obligations.DecodeOfEncodeIsTheInstruction : Prop :=
  ∀ i : Instr, decode (encode i) = .ok i

/-- A word has one reading: what decodes to an instruction is that instruction's word, bit for bit. 30_encoding.md. -/
def Obligations.EncodeOfDecodeIsTheWord : Prop :=
  ∀ (c : PortWord) (i : Instr), decode c = .ok i → encode i = c

/-- The decoder accepts exactly the legal words of rules R73, R76 and R78, rejects the others by the name of their port, and a
port's word decodes to an instruction of that port (rule R70). -/
def Obligations.LegalWordsDecodeAndNoOthers : Prop :=
  ∀ c : PortWord,
    ((∃ i, decode c = .ok i) ↔ c.legal = true)
      ∧ (∀ i, decode c = .ok i → match c with
          | .event _ => i.isEvent = true
          | .microOp _ => i.isMicroOp = true
          | .stepCode _ => i.isStep = true)
      ∧ (c.legal = false → match c with
          | .event w => decode c = .error (.illegalEvent w)
          | .microOp w => decode c = .error (.reservedMicroOp w)
          | .stepCode k => decode c = .error (.reservedStepCode k))

/-- Words written out from rules R72, R75, R78 and R80. -/
def Obligations.WordsDecodeAsTheTablesSay : Prop :=
  decode (.event 0b00010000#8) = .ok (.pwrPc false) ∧ decode (.event 0b00010001#8) = .ok (.pwrPc true)
    ∧ decode (.event 0b00100110#8) = .ok (.grpPc false true true)
    ∧ decode (.event 0b00100101#8) = .ok (.grpPc true false true)
    ∧ decode (.event 0b00100011#8) = .ok (.grpPc true true false)
    ∧ decode (.event 0b01110000#8) = .ok .minusFall
    ∧ decode (.microOp 0b0001000100111011#16) = .ok (.toReg 59#8)
    ∧ decode (.microOp 0b0010000000110111#16) = .ok (.tbSetDigit .tube 3#3 7#4)
    ∧ decode (.microOp 0b0010000110000000#16) = .ok (.tbClearAll .blank)
    ∧ decode (.microOp 0b0011000010000110#16) = .ok (.pack .blank 6#4)
    ∧ decode (.stepCode 0b01011#5) = .ok .lWb1 ∧ decode (.stepCode 0b10010#5) = .ok .lTx
    ∧ decode (.stepCode 0b10011#5) = .error (.reservedStepCode 0b10011#5)

/-! ## Steps and turns -/

/-- A step runs the instruction that the next turn's word decodes to: the delivered event word, the micro-op word, or the code in
`seq_pc` (43_programming_fsm.md rule R160, 44_render_sequencer.md rule R200). `s1` is `s` with the turn taken. -/
def Obligations.StepRunsTheDecodedInstruction : Prop :=
  ∀ (s s1 : State) (i : Instr),
    (∀ w, s.nextTurn = (.event w, s1) → decode (.event w) = .ok i → step s = exec i s1)
      ∧ (s.nextTurn = (.sequencer, s1) → decode (.stepCode s.seqPc) = .ok i → step s = exec i s1)
      ∧ (∀ w, s.nextTurn = (.microOp w, s1) → decode (.microOp w) = .ok i → step s = exec i s1)

/-- The order of turns (20_memory.md rule R60): turns that the state fixes come in their order; beyond them any finite number of
events, zero included, and then a step of S. Taking a turn changes nothing of the block.
(That the state may fix coming turns is the model's own: log entry 3.) -/
def Obligations.EventsStandBetweenSequencerSteps : Prop :=
  ∀ s : State,
    (∀ t rest, s.turns = t :: rest → s.nextTurn = (t, { s with turns := rest }))
      ∧ (s.turns = [] → ∃ ws : List Byte,
          s.nextTurn.1 :: s.nextTurn.2.turns = ws.map Turn.event ++ [Turn.sequencer])
      ∧ s.nextTurn.2 = { s with turns := s.nextTurn.2.turns, draws := s.nextTurn.2.draws }

/-- An illegal event word sets ILL_EV, sets the cause if there was none, and does nothing else. Rule R243. -/
def Obligations.IllegalEventIsRecordedAndIgnored : Prop :=
  ∀ (s : State) (w : BitVec 8) (rest : List Turn), s.turns = .event w :: rest → eventWordLegal w = false →
    step s = .next (withError 0b010#3 3#4 { s with turns := rest })

/-- A reserved micro-op word and a reserved step code are refused by name. Rules R76, R223. -/
def Obligations.ReservedWordsAreRefused : Prop :=
  (∀ (s : State) (w : BitVec 16) (rest : List Turn), s.turns = .microOp w :: rest → microOpWordLegal w = false →
      step s = .refused (.reservedMicroOp w))
    ∧ (∀ (s : State) (rest : List Turn), s.turns = .sequencer :: rest → 0x13 ≤ s.seqPc.toNat →
      step s = .refused (.reservedStepCode s.seqPc))

/-- Every instruction answers a next state in every state, and leaves the configuration as it is (rules R240, R7). -/
def Obligations.EveryInstructionCompletesUnderItsConfiguration : Prop :=
  ∀ (i : Instr) (s : State), ∃ t, exec i s = .next t ∧ t.cfg = s.cfg

/-! ## Events -/

/-- PWR_FALL toggles `power_state` and writes nothing else; its word is 0x40, with any other argument illegal. Rule R164. -/
def Obligations.PowerFallToggles : Prop :=
  (∀ arg : BitVec 4, decode (.event (0x4#4 ++ arg))
      = if arg = 0#4 then .ok .pwrFall else .error (.illegalEvent (0x4#4 ++ arg)))
    ∧ ∀ s : State, ∃ t, exec .pwrFall s = .next t
        ∧ (s.powerState = .off → t = { s with powerState := .on })
        ∧ (s.powerState = .on → t = { s with powerState := .off })

/-- PWR_PC: level 0 does what PWR_FALL does, level 1 nothing; arg[3:1] must be 0. Rule R161. -/
def Obligations.PowerPinChangeActsOnLevelZero : Prop :=
  (∀ arg : BitVec 4, decode (.event (0x1#4 ++ arg))
      = if arg.toNat ≤ 1 then .ok (.pwrPc (arg.getLsbD 0)) else .error (.illegalEvent (0x1#4 ++ arg)))
    ∧ ∀ s : State, exec (.pwrPc true) s = .next s
        ∧ ∃ t, exec (.pwrPc false) s = .next t ∧ exec .pwrFall s = .next t ∧ t.powerState ≠ s.powerState
            ∧ t = { s with powerState := t.powerState }

/-- MODE_FALL: no effect in NOT_PROG with the power OFF, else `prog_state` becomes its successor, `(q + 1) mod 4` in the
encoding of rule R22, and nothing else changes. Rules R165, R166. -/
def Obligations.ModeFallCyclesTheProgrammingState : Prop :=
  (∀ arg : BitVec 4, decode (.event (0x5#4 ++ arg))
      = if arg = 0#4 then .ok .modeFall else .error (.illegalEvent (0x5#4 ++ arg)))
    ∧ ∀ s : State, ∃ t, exec .modeFall s = .next t
        ∧ (s.progState = .notProg → s.powerState = .off → t = s)
        ∧ (¬ (s.progState = .notProg ∧ s.powerState = .off) →
            (progBits t.progState).toNat = ((progBits s.progState).toNat + 1) % 4
              ∧ t = { s with progState := t.progState })

/-- With the power ON, four mode events return to the state they began in, and no fewer do (95_test_vectors.md S6, rules R165,
R166). -/
def Obligations.FourModeEventsReturn : Prop :=
  ∀ s s1 s2 s3 : State, s.powerState = .on → exec .modeFall s = .next s1 → exec .modeFall s1 = .next s2 →
    exec .modeFall s2 = .next s3 → exec .modeFall s3 = .next s ∧ s1.progState ≠ s.progState
      ∧ s2.progState ≠ s.progState ∧ s3.progState ≠ s.progState

/-- PLUS_FALL: in NOT_PROG no effect; else the active field takes +1 and CARRY_CASCADE runs once over the three fields, in
its order, whatever the values are; nothing but the three fields is written. Rules R167, R169, R171. -/
def Obligations.PlusFallIncrementsWithCarry : Prop :=
  (∀ arg : BitVec 4, decode (.event (0x6#4 ++ arg))
      = if arg = 0#4 then .ok .plusFall else .error (.illegalEvent (0x6#4 ++ arg)))
    ∧ ∀ s : State, ∃ t, exec .plusFall s = .next t
        ∧ t = { s with hours := t.hours, minutes := t.minutes, seconds := t.seconds }
        ∧ (s.progState = .notProg → t = s)
        ∧ (s.progState ≠ .notProg → ∀ s0 m0 h0 m1 h1 : Nat,
            s0 = s.seconds.toNat + (if s.progState = .editS then 1 else 0) →
            m0 = s.minutes.toNat + (if s.progState = .editM then 1 else 0) →
            h0 = s.hours.toNat + (if s.progState = .editH then 1 else 0) →
            m1 = (if s0 ≥ 60 then m0 + 1 else m0) →
            h1 = (if m1 ≥ 60 then h0 + 1 else h0) →
            t.seconds = BitVec.ofNat 8 (if s0 ≥ 60 then s0 - 60 else s0)
              ∧ t.minutes = BitVec.ofNat 8 (if m1 ≥ 60 then m1 - 60 else m1)
              ∧ t.hours = BitVec.ofNat 8 (if h1 ≥ 24 then 0 else h1))

/-- MINUS_FALL: in NOT_PROG no effect; else the active field takes -1 and BORROW_CASCADE runs once over the three fields:
a field at 0 that is decremented or borrowed from becomes 59 (hours 23) and borrows from the next; nothing but the three
fields is written. Rules R168, R170, R171. -/
def Obligations.MinusFallDecrementsWithBorrow : Prop :=
  (∀ arg : BitVec 4, decode (.event (0x7#4 ++ arg))
      = if arg = 0#4 then .ok .minusFall else .error (.illegalEvent (0x7#4 ++ arg)))
    ∧ ∀ s : State, ∃ t, exec .minusFall s = .next t
        ∧ t = { s with hours := t.hours, minutes := t.minutes, seconds := t.seconds }
        ∧ (s.progState = .notProg → t = s)
        ∧ (s.progState ≠ .notProg → ∀ decS decM decH : Bool,
            decS = decide (s.progState = .editS) →
            decM = (decide (s.progState = .editM) || (decS && decide (s.seconds = 0#8))) →
            decH = (decide (s.progState = .editH) || (decM && decide (s.minutes = 0#8))) →
            t.seconds = (if decS then (if s.seconds = 0#8 then 59#8 else s.seconds - 1#8) else s.seconds)
              ∧ t.minutes = (if decM then (if s.minutes = 0#8 then 59#8 else s.minutes - 1#8) else s.minutes)
              ∧ t.hours = (if decH then (if s.hours = 0#8 then 23#8 else s.hours - 1#8) else s.hours))

/-- On the valid domain an adjust keeps the domain and moves the time of day by one unit of the active field, on a 24-hour
clock. Rule R176. -/
def Obligations.AdjustIsClockArithmetic : Prop :=
  ∀ s : State, ValidTime s → s.progState ≠ .notProg →
    (∃ t, exec .plusFall s = .next t ∧ ValidTime t
        ∧ secondsOfDay t = (secondsOfDay s + adjustUnit s.progState) % 86400)
      ∧ (∃ t, exec .minusFall s = .next t ∧ ValidTime t
        ∧ secondsOfDay t = (secondsOfDay s + 86400 - adjustUnit s.progState) % 86400)

/-- On the valid domain each cascade leaves the other direction's adjusted fields alone, so the choice of cascade makes no
difference there. Rule R177. -/
def Obligations.CascadeChoiceIsImmaterialOnTheValidDomain : Prop :=
  ∀ s : State, ValidTime s →
    borrowCascade (bumpField s.progState 1 s.hms) = bumpField s.progState 1 s.hms
      ∧ carryCascade (bumpField s.progState (-1) s.hms) = bumpField s.progState (-1) s.hms

/-- GRP_PC performs the action of each button whose level is 0, in the order AdjustPlus, AdjustMinus, CycleMode, each on the
state the previous one left, and nothing where all levels are 1; arg[3] must be 0. Rule R163. -/
def Obligations.GroupActsInOrder : Prop :=
  (∀ arg : BitVec 4, decode (.event (0x2#4 ++ arg))
      = if arg.toNat ≤ 7 then .ok (.grpPc (arg.getLsbD 0) (arg.getLsbD 1) (arg.getLsbD 2))
        else .error (.illegalEvent (0x2#4 ++ arg)))
    ∧ ∀ (plus minus mode : Bool) (s : State), ∃ s1 s2 t, exec (.grpPc plus minus mode) s = .next t
        ∧ (if plus = false then exec .plusFall s = .next s1 else s1 = s)
        ∧ (if minus = false then exec .minusFall s1 = .next s2 else s2 = s1)
        ∧ (if mode = false then exec .modeFall s2 = .next t else t = s2)

/-- On the valid domain, plus and minus held together undo each other, and the mode button then cycles from the state before
(95_test_vectors.md V7, rules R163, R167, R168). -/
def Obligations.PlusAndMinusTogetherCancel : Prop :=
  ∀ s : State, ValidTime s →
    exec (.grpPc false false true) s = .next s ∧ exec (.grpPc false false false) s = exec .modeFall s

/-- An event step, legal word or not, gives a next state; it touches nothing of the sequencer, no access, no configuration; an
event word that is legal leaves the error record as it is. Rules R248, R246. -/
def Obligations.EventStepsTouchOnlySharedStateAndErrors : Prop :=
  ∀ (s : State) (w : BitVec 8) (rest : List Turn), s.turns = .event w :: rest →
    ∃ t, step s = .next t ∧ SequencerUntouched s t ∧ EnvironmentUntouched { s with turns := rest } t
      ∧ (eventWordLegal w = true → t.errFlags = s.errFlags ∧ t.errCause = s.errCause)
      ∧ (eventWordLegal w = false → SameShared s t)

/-- What an event does to the shared state is decided by the shared state alone: no event reads the sequencer's state, the
buffers, the history or the environment. Rule R248. -/
def Obligations.EventsReadOnlySharedState : Prop :=
  ∀ (i : Instr) (s s' t t' : State), i.isEvent = true → SameShared s s' → exec i s = .next t → exec i s' = .next t' →
    SameShared t t'

/-- Adjust events do not read `power_state`: with the power switched, the same fields result. Rule R172. -/
def Obligations.AdjustIgnoresPower : Prop :=
  ∀ (s t : State) (p : PowerState),
    (exec .plusFall s = .next t → exec .plusFall { s with powerState := p } = .next { t with powerState := p })
      ∧ (exec .minusFall s = .next t → exec .minusFall { s with powerState := p } = .next { t with powerState := p })

/-! ## Micro-ops -/

/-- TO_PLAIN answers `10 * b[7:4] + b[3:0]` for every byte, with no mask, and changes nothing of the block. From rule R141.
(That the answer stands in a field is the model's own: log entry 7.) -/
def Obligations.ToPlainAnswersTensAndOnes : Prop :=
  (∀ b : Byte, decode (.microOp (0x10#8 ++ b)) = .ok (.toPlain b))
    ∧ ∀ (b : Byte) (s : State), ∃ v : Byte, exec (.toPlain b) s = .next { s with portResult := .byte v }
        ∧ v.toNat = 10 * (b.toNat / 16) + b.toNat % 16 ∧ v.toNat ≤ 165

/-- TO_REG answers the byte whose high nibble is `trunc_4(v div 10)` and whose low nibble is `v mod 10`, and changes nothing of the
block. From rule R142. (That the answer stands in a field is the model's own: log entry 7.) -/
def Obligations.ToRegAnswersNibbles : Prop :=
  (∀ v : Byte, decode (.microOp (0x11#8 ++ v)) = .ok (.toReg v))
    ∧ ∀ (v : Byte) (s : State), ∃ b : Byte, exec (.toReg v) s = .next { s with portResult := .byte b }
        ∧ b.toNat = 16 * (v.toNat / 10 % 16) + v.toNat % 10

/-- TO_REG and then TO_PLAIN of its answer gives the value back on 0..99, and TO_PLAIN and then TO_REG gives a canonical BCD
byte back. The spec's examples of failure: 165 comes back as 5, 0x0A comes back as 0x10. From rules R143 and R144.
(Both laws hold for some values outside those ranges too, such as 100 and 0xA0. That the answers stand in a field is the
model's own: log entry 7.) -/
def Obligations.ConversionsRoundTrip : Prop :=
  (∀ (v : Byte) (s : State), v.toNat ≤ 99 → ∃ b, exec (.toReg v) s = .next { s with portResult := .byte b }
      ∧ exec (.toPlain b) s = .next { s with portResult := .byte v })
    ∧ (∀ (b : Byte) (s : State), b.toNat / 16 ≤ 9 → b.toNat % 16 ≤ 9 →
      ∃ v, exec (.toPlain b) s = .next { s with portResult := .byte v }
        ∧ exec (.toReg v) s = .next { s with portResult := .byte b })
    ∧ toPlain (toReg 165#8) = 5#8 ∧ toReg (toPlain 0x0A#8) = 0x10#8

/-- TB_SET_DIGIT in range writes exactly the element of its position, whatever the value, and leaves the other buffer and the
rest of the block as they are; out of range it writes no element and records POS_RANGE. From rule R121.
(That `portResult` then holds nothing, or the error, is the model's own: log entry 7.) -/
def Obligations.SetDigitWritesOneElement : Prop :=
  (∀ (sel : BitVec 1) (pos : BitVec 3) (val : BitVec 4), decode (.microOp (0x20#8 ++ (sel ++ pos ++ val)))
      = .ok (.tbSetDigit (if sel = 0#1 then .tube else .blank) pos val))
    ∧ (∀ (sel : BufSel) (pos : BitVec 3) (val : Nibble) (s : State), 1 ≤ pos.toNat → pos.toNat ≤ s.cfg.par.n →
        (s.buf sel).length = s.cfg.par.n →
        ∃ t b, exec (.tbSetDigit sel pos val) s = .next t
          ∧ t = (match sel with
              | .tube => { s with tubeBuf := b, portResult := .nothing }
              | .blank => { s with blankBuf := b, portResult := .nothing })
          ∧ b.length = s.cfg.par.n
          ∧ ∀ p, 1 ≤ p → b[p - 1]? = if p = pos.toNat then some val else (s.buf sel)[p - 1]?)
    ∧ (∀ (sel : BufSel) (pos : BitVec 3) (val : Nibble) (s : State), pos.toNat = 0 ∨ pos.toNat > s.cfg.par.n →
        exec (.tbSetDigit sel pos val) s
          = .next (withError 0b001#3 2#4 { s with portResult := .packingError .posRange }))

/-- TB_CLEAR_ALL makes every one of the N elements of its buffer OFF and never touches the other buffer. From rule R122.
(That `portResult` then holds nothing is the model's own: log entry 7.) -/
def Obligations.ClearAllMakesEveryElementOff : Prop :=
  (∀ sel : BitVec 1, decode (.microOp (0x21#8 ++ (sel ++ 0#7)))
      = .ok (.tbClearAll (if sel = 0#1 then .tube else .blank)))
    ∧ ∀ (sel : BufSel) (s : State), ∃ t b, exec (.tbClearAll sel) s = .next t
        ∧ t = (match sel with
            | .tube => { s with tubeBuf := b, portResult := .nothing }
            | .blank => { s with blankBuf := b, portResult := .nothing })
        ∧ b.length = s.cfg.par.n ∧ ∀ e ∈ b, e = 0xF#4

/-- PACK of `count ≤ N` elements answers bytes placed as the closed form of rule R102 says, exactly `ceil(count/2)` of them (rule
R103), and changes nothing of the block. (That the answer stands in a field is the model's own: log entry 7.) -/
def Obligations.PackPlacesNibbles : Prop :=
  ∀ (sel : BufSel) (count : BitVec 4) (s : State), count.toNat ≤ s.cfg.par.n → (s.buf sel).length = s.cfg.par.n →
    ∃ out, exec (.pack sel count) s = .next { s with portResult := .bytes out }
      ∧ PlacedNibbles (s.buf sel) count.toNat out

/-- PACK of more than N elements returns nothing, records PACK_COUNT and writes nothing else, whatever the buffers hold. From
rules R104 and R242. (That `portResult` then holds the error is the model's own: log entry 7.) -/
def Obligations.PackChecksItsCount : Prop :=
  (∀ (sel : BitVec 1) (count : BitVec 4), decode (.microOp (0x30#8 ++ (sel ++ 0#3 ++ count)))
      = .ok (.pack (if sel = 0#1 then .tube else .blank) count))
    ∧ ∀ (sel : BufSel) (count : BitVec 4) (s : State), count.toNat > s.cfg.par.n →
        exec (.pack sel count) s = .next (withError 0b001#3 1#4 { s with portResult := .packingError .packCount })

/-- DIGITS: on the valid domain the two display nibbles are those of the register byte, and OFF comes from no value below 150 and
as the tens nibble of exactly 150..159. From rule R146. -/
def Obligations.DigitsAreTheRegisterNibbles : Prop :=
  ∀ v : Byte, (v.toNat ≤ 99 → toReg v = tensDigit v ++ onesDigit v ∧ (tensDigit v).toNat ≤ 9)
    ∧ (onesDigit v).toNat = v.toNat % 10 ∧ (tensDigit v).toNat = v.toNat / 10 % 16
    ∧ (tensDigit v = OFF ↔ 150 ≤ v.toNat ∧ v.toNat ≤ 159)

/-! ## The sequencer's steps -/

/-- The initialisation steps, where the write succeeds: each writes its byte at its offset, records it, and goes on to its
successor; nothing else of the block changes. Rules R203 to R206. -/
def Obligations.InitStepsWriteTheTimeSource : Prop :=
  (decode (.stepCode 0x00#5) = .ok .initCtrl ∧ decode (.stepCode 0x01#5) = .ok .initSeedH
      ∧ decode (.stepCode 0x02#5) = .ok .initSeedM ∧ decode (.stepCode 0x03#5) = .ok .initSeedS)
    ∧ ∀ s s1 : State, AccessSucceeds s s1 →
      exec .initCtrl s = .next { s1 with
          history := s.history ++ [.rtcWrite s.cfg.par.rtcOffCtrl s.cfg.par.ctrl24hValue],
          seqPc := if s.cfg.par.seedOnReset = true then 0x01#5 else 0x04#5 }
        ∧ exec .initSeedH s = .next { s1 with
          history := s.history ++ [.rtcWrite s.cfg.par.rtcOffH s.cfg.par.seedH], seqPc := 0x02#5 }
        ∧ exec .initSeedM s = .next { s1 with
          history := s.history ++ [.rtcWrite s.cfg.par.rtcOffM s.cfg.par.seedM], seqPc := 0x03#5 }
        ∧ exec .initSeedS s = .next { s1 with
          history := s.history ++ [.rtcWrite s.cfg.par.rtcOffS s.cfg.par.seedS], seqPc := 0x04#5 }

/-- A collaborator access succeeds or fails, never fails where COLLAB_CAN_FAIL is false, and a failure records COLLAB_FAIL and
writes no block state from the failed access: a step INIT_* keeps `seq_pc`, any other step goes to L_POWER. From rule R202.
(That a failed access is not in the history is the model's reading, DEDUCED: log entry 8. The list that fixes some draws is
the model's own: log entry 5.) -/
def Obligations.CollaboratorFailureRetriesOrAbandons : Prop :=
  (∀ s : State, (∃ s1, AccessSucceeds s s1) ∨ (∃ s1, AccessFails s s1))
    ∧ (∀ s s1 : State, s.cfg.par.collabCanFail = false → ¬ AccessFails s s1)
    ∧ ∀ s s1 : State, AccessFails s s1 →
      (∀ i ∈ [Instr.initCtrl, .initSeedH, .initSeedM, .initSeedS], exec i s = .next (withError 0b100#3 4#4 s1))
        ∧ (∀ i ∈ [Instr.lBlankTx, .lLoadH, .lLoadM, .lLoadS, .lWb1, .lWb2, .lWb3, .lTx],
          exec i s = .next (withError 0b100#3 4#4 { s1 with seqPc := 0x04#5 }))

/-- L_POWER samples `power_state` and goes to L_BLANK or L_PROG; L_PROG samples `prog_state` and goes to L_LOAD_H or L_WB_1; each
writes its snapshot and `seq_pc` only. Rules R207, R210. -/
def Obligations.SamplingStepsChooseThePath : Prop :=
  (decode (.stepCode 0x04#5) = .ok .lPower ∧ decode (.stepCode 0x07#5) = .ok .lProg)
    ∧ ∀ s : State,
      (∃ t, exec .lPower s = .next t ∧ t = { s with pSnap := s.powerState, seqPc := t.seqPc }
          ∧ (s.powerState = .off → t.seqPc = 0x05#5) ∧ (s.powerState = .on → t.seqPc = 0x07#5))
        ∧ (∃ t, exec .lProg s = .next t ∧ t = { s with qSnap := s.progState, seqPc := t.seqPc }
          ∧ (s.progState = .notProg → t.seqPc = 0x08#5) ∧ (s.progState ≠ .notProg → t.seqPc = 0x0B#5))

/-- L_BLANK and L_CLEAR do what TB_CLEAR_ALL 1 and TB_CLEAR_ALL 0 do (the buffer all OFF, the other one untouched) and go on to
their successors. Rules R208, R218. -/
def Obligations.ClearingStepsAreTheirMicroOp : Prop :=
  (decode (.stepCode 0x05#5) = .ok .lBlank ∧ decode (.stepCode 0x0E#5) = .ok .lClear)
    ∧ ∀ s : State,
      (∃ t u, exec .lBlank s = .next t ∧ exec (.tbClearAll .blank) s = .next u
          ∧ t = { s with blankBuf := u.blankBuf, seqPc := 0x06#5 }
          ∧ t.blankBuf.length = s.cfg.par.n ∧ ∀ e ∈ t.blankBuf, e = 0xF#4)
        ∧ (∃ t u, exec .lClear s = .next t ∧ exec (.tbClearAll .tube) s = .next u
          ∧ t = { s with tubeBuf := u.tubeBuf, seqPc := 0x0F#5 }
          ∧ t.tubeBuf.length = s.cfg.par.n ∧ ∀ e ∈ t.tubeBuf, e = 0xF#4)

/-- L_BLANK_TX with the blank buffer all OFF, where the transmit succeeds: `ceil(N/2)` bytes of 0xFF go out with SERIAL_MSB_FIRST,
`last_tx` is those bytes, and `seq_pc` is L_POWER; nothing else changes. Rule R209 (and R105). -/
def Obligations.BlankTransmitSendsAllOff : Prop :=
  decode (.stepCode 0x06#5) = .ok .lBlankTx
    ∧ ∀ s s1 : State, AccessSucceeds s s1 → s.blankBuf.length = s.cfg.par.n → (∀ e ∈ s.blankBuf, e = 0xF#4) →
      exec .lBlankTx s = .next { s1 with
        lastTx := List.replicate ((s.cfg.par.n + 1) / 2) 0xFF#8,
        history := s.history
          ++ [.transmit (List.replicate ((s.cfg.par.n + 1) / 2) 0xFF#8) s.cfg.par.serialMsbFirst],
        seqPc := 0x04#5 }

/-- L_TX, where the transmit succeeds: the whole logical buffer goes out packed as rule R102 says, with SERIAL_MSB_FIRST, `last_tx`
is those bytes, and `seq_pc` is L_POWER; nothing else changes. Rule R222. -/
def Obligations.TransmitSendsThePackedTubeBuffer : Prop :=
  decode (.stepCode 0x12#5) = .ok .lTx
    ∧ ∀ s s1 : State, AccessSucceeds s s1 → s.tubeBuf.length = s.cfg.par.n →
      ∃ out, exec .lTx s = .next { s1 with
          lastTx := out, history := s.history ++ [.transmit out s.cfg.par.serialMsbFirst], seqPc := 0x04#5 }
        ∧ PlacedNibbles s.tubeBuf s.cfg.par.n out

/-- L_LOAD_f, where the read succeeds: the read is recorded at the field's offset with the byte the Time Source answers, the
field is `10 * b[7:4] + b[3:0]`, and the step goes on to its successor; nothing else of the block changes. Rules R211 to R213. -/
def Obligations.LoadStepsReadTheTimeSource : Prop :=
  (decode (.stepCode 0x08#5) = .ok .lLoadH ∧ decode (.stepCode 0x09#5) = .ok .lLoadM
      ∧ decode (.stepCode 0x0A#5) = .ok .lLoadS)
    ∧ ∀ (s s1 s2 : State) (b v : Byte), AccessSucceeds s s1 → TimeSourceAnswers s1 b s2 →
      v.toNat = 10 * (b.toNat / 16) + b.toNat % 16 →
      exec .lLoadH s = .next { s2 with
          hours := v, history := s.history ++ [.rtcRead s.cfg.par.rtcOffH b], seqPc := 0x09#5 }
        ∧ exec .lLoadM s = .next { s2 with
          minutes := v, history := s.history ++ [.rtcRead s.cfg.par.rtcOffM b], seqPc := 0x0A#5 }
        ∧ exec .lLoadS s = .next { s2 with
          seconds := v, history := s.history ++ [.rtcRead s.cfg.par.rtcOffS b], seqPc := 0x0E#5 }

/-- L_WB_1 to L_WB_3, where the write succeeds: the k-th field of the order of rule R214 is written at its offset as TO_REG of the
field's value, and `seq_pc` is the successor; no field and nothing else of the block changes. Rules R214 to R217.
The order is never asked of NOT_PROG: there some field is written, and no statement says which (log entry 10). -/
def Obligations.WriteBackFollowsTheOrder : Prop :=
  (decode (.stepCode 0x0B#5) = .ok .lWb1 ∧ decode (.stepCode 0x0C#5) = .ok .lWb2
      ∧ decode (.stepCode 0x0D#5) = .ok .lWb3)
    ∧ ∀ s s1 : State, AccessSucceeds s s1 → ∃ f1 f2 f3 : Field,
      (s.qSnap = .editH → f1 = .h ∧ f2 = .m ∧ f3 = .s) ∧ (s.qSnap = .editM → f1 = .m ∧ f2 = .h ∧ f3 = .s)
        ∧ (s.qSnap = .editS → f1 = .s ∧ f2 = .h ∧ f3 = .m)
        ∧ ∀ w : Field → Byte,
          (w = fun f => BitVec.ofNat 4 ((s.field f).toNat / 10) ++ BitVec.ofNat 4 ((s.field f).toNat % 10)) →
          exec .lWb1 s = .next { s1 with
              history := s.history ++ [.rtcWrite (s.cfg.par.rtcOff f1) (w f1)], seqPc := 0x0C#5 }
            ∧ exec .lWb2 s = .next { s1 with
              history := s.history ++ [.rtcWrite (s.cfg.par.rtcOff f2) (w f2)], seqPc := 0x0D#5 }
            ∧ exec .lWb3 s = .next { s1 with
              history := s.history ++ [.rtcWrite (s.cfg.par.rtcOff f3) (w f3)], seqPc := 0x0E#5 }

/-- L_MAP_H, L_MAP_M and L_MAP_S: a mapped field's two digits go to their two positions and no other element changes; an unmapped
field changes nothing; in both cases `seq_pc` is the successor and no error is recorded. Rules R219 to R221. -/
def Obligations.MapStepsPlaceDigits : Prop :=
  (decode (.stepCode 0x0F#5) = .ok .lMapH ∧ decode (.stepCode 0x10#5) = .ok .lMapM
      ∧ decode (.stepCode 0x11#5) = .ok .lMapS)
    ∧ ∀ (s : State) (f : Field) (i : Instr) (next : BitVec 5),
      ((f = .h ∧ i = .lMapH ∧ next = 0x10#5) ∨ (f = .m ∧ i = .lMapM ∧ next = 0x11#5)
        ∨ (f = .s ∧ i = .lMapS ∧ next = 0x12#5)) →
      s.tubeBuf.length = s.cfg.par.n →
      (s.cfg.par.tubeMap.at f .tens = none → exec i s = .next { s with seqPc := next })
        ∧ (∀ tens, s.cfg.par.tubeMap.at f .tens = some tens → ∃ ones b,
          s.cfg.par.tubeMap.at f .ones = some ones ∧ exec i s = .next { s with tubeBuf := b, seqPc := next }
            ∧ b.length = s.cfg.par.n
            ∧ ∀ p, 1 ≤ p → b[p - 1]? =
              if p = tens then some (BitVec.ofNat 4 ((s.field f).toNat / 10))
              else if p = ones then some (BitVec.ofNat 4 ((s.field f).toNat % 10))
              else s.tubeBuf[p - 1]?)

/-- No step of the sequencer raises PackingError, and the operation that the L_MAP steps share takes the fail-safe (record, and
`seq_pc` to L_BLANK, with no element written) when a position is out of range. From rule R244. -/
def Obligations.FailSafeBlanksAndIsNeverTaken : Prop :=
  (∀ (i : Instr) (s t : State), i.isStep = true → exec i s = .next t →
      t.errFlags.getLsbD 0 = s.errFlags.getLsbD 0 ∧ t.portResult = s.portResult)
    ∧ ∀ (s : State) (tens ones : Nat) (v : Byte) (code : BitVec 5),
      (tens < 1 ∨ tens > s.cfg.par.n ∨ ones < 1 ∨ ones > s.cfg.par.n) →
      s.placeDigits tens ones v code = withError 0b001#3 2#4 { s with seqPc := 0x05#5 }

/-! ## Whole-machine rules -/

/-- Which instructions write which element: whatever an instruction changes, the spec lists it as a writer (10_state.md rules R21 to
R30, "written only by"). `err_flags` and `err_cause` differ only after a PackingError of TB_SET_DIGIT or PACK or after an access
that can fail; ILL_EV differs after no instruction, and over a step only after an illegal event word or the reset input (rule
R30). The history grows only in the steps that access, by an access of their kind (20_memory.md rules R56, R57, rule R201).
(The clauses on `portResult` and on the environment's fields are about the model's own fields: log entries 3 to 7. That a failed
access is not in the history is DEDUCED: log entry 8.) -/
def Obligations.OnlyTheListedWritersWrite : Prop :=
  (∀ (i : Instr) (s t : State), exec i s = .next t →
    (t.powerState ≠ s.powerState → i = .pwrFall ∨ i = .pwrPc false)
      ∧ (t.progState ≠ s.progState → i = .modeFall ∨ ∃ plus minus, i = .grpPc plus minus false)
      ∧ (t.hours ≠ s.hours → Adjusts i ∨ i = .lLoadH)
      ∧ (t.minutes ≠ s.minutes → Adjusts i ∨ i = .lLoadM)
      ∧ (t.seconds ≠ s.seconds → Adjusts i ∨ i = .lLoadS)
      ∧ (t.tubeBuf ≠ s.tubeBuf → i = .lClear ∨ i = .lMapH ∨ i = .lMapM ∨ i = .lMapS ∨ i = .tbClearAll .tube
          ∨ ∃ p v, i = .tbSetDigit .tube p v)
      ∧ (t.blankBuf ≠ s.blankBuf → i = .lBlank ∨ i = .tbClearAll .blank ∨ ∃ p v, i = .tbSetDigit .blank p v)
      ∧ (t.lastTx ≠ s.lastTx → i ∈ transmitSteps)
      ∧ (t.seqPc ≠ s.seqPc → i.isStep = true)
      ∧ (t.pSnap ≠ s.pSnap → i = .lPower)
      ∧ (t.qSnap ≠ s.qSnap → i = .lProg)
      ∧ (t.errFlags.getLsbD 0 ≠ s.errFlags.getLsbD 0 → RaisesPackingError s.cfg.par.n i)
      ∧ t.errFlags.getLsbD 1 = s.errFlags.getLsbD 1
      ∧ (t.errFlags.getLsbD 2 ≠ s.errFlags.getLsbD 2 → MayFail s.cfg i)
      ∧ (t.errCause ≠ s.errCause → RaisesPackingError s.cfg.par.n i ∨ MayFail s.cfg i)
      ∧ (t.history ≠ s.history →
          (i ∈ readSteps ∧ ∃ off b, t.history = s.history ++ [.rtcRead off b])
            ∨ (i ∈ writeSteps ∧ ∃ off b, t.history = s.history ++ [.rtcWrite off b])
            ∨ (i ∈ transmitSteps ∧ t.history = s.history ++ [.transmit t.lastTx s.cfg.par.serialMsbFirst]))
      ∧ (t.portResult ≠ s.portResult → i.isMicroOp = true)
      ∧ (t.reads ≠ s.reads → i ∈ readSteps)
      ∧ (t.accessOks ≠ s.accessOks → MayFail s.cfg i)
      ∧ (t.draws ≠ s.draws → i ∈ readSteps ∨ MayFail s.cfg i)
      ∧ t.turns = s.turns ∧ t.cfg = s.cfg)
    ∧ ∀ s t : State, step s = .next t → t.errFlags.getLsbD 1 ≠ s.errFlags.getLsbD 1 →
      s.nextTurn.1 = .reset ∨ ∃ w, s.nextTurn.1 = .event w ∧ eventWordLegal w = false

/-- The error record is sticky: outside the reset input, a step only adds flags, and a cause once set stays. Rule R245. -/
def Obligations.ErrorRecordIsSticky : Prop :=
  ∀ s t : State, s.nextTurn.1 ≠ .reset → step s = .next t →
    s.errFlags &&& t.errFlags = s.errFlags ∧ (s.errCause ≠ 0#4 → t.errCause = s.errCause)

/-- The access history only grows, by at most one access a step, and only with accesses of rules R56, R57 and R201; only the
reset input empties it. Rules R60, R270. -/
def Obligations.HistoryGrowsByAllowedAccesses : Prop :=
  ∀ s t : State, step s = .next t →
    (s.nextTurn.1 = .reset ∧ t.history = []) ∨ t.history = s.history
      ∨ ∃ a, t.history = s.history ++ [a] ∧ accessAllowed s.cfg.par a

/-- Every field stays in 0..165 over every step; after an adjust plus seconds are at most 106, minutes at most 107 and hours at
most 23; after an adjust minus each field is at most its value before, or 59 (hours 23). From rule R175.
(Rule R175 says minutes at most 106, which its own rules R167 and R169 do not give: log entry 16.) -/
def Obligations.FieldsStayInRange : Prop :=
  (∀ s t : State, FieldsBounded s → step s = .next t → FieldsBounded t)
    ∧ (∀ s t : State, FieldsBounded s → s.progState ≠ .notProg → exec .plusFall s = .next t →
      t.seconds.toNat ≤ 106 ∧ t.minutes.toNat ≤ 107 ∧ t.hours.toNat ≤ 23)
    ∧ (∀ s t : State, exec .minusFall s = .next t →
      (t.seconds.toNat ≤ s.seconds.toNat ∨ t.seconds = 59#8) ∧ (t.minutes.toNat ≤ s.minutes.toNat ∨ t.minutes = 59#8)
        ∧ (t.hours.toNat ≤ s.hours.toNat ∨ t.hours = 23#8))

/-- After L_POWER no step of the sequencer reads `power_state`, and but for L_PROG none reads `prog_state`: the path of an
iteration is fixed by its samples. From rules R29, R278, R276. -/
def Obligations.SnapshotsFixThePath : Prop :=
  ∀ (i : Instr) (s t : State), i.isStep = true → exec i s = .next t →
    (i ≠ .lPower → ∀ p, exec i { s with powerState := p } = .next { t with powerState := p })
      ∧ (i ≠ .lProg → ∀ q, exec i { s with progState := q } = .next { t with progState := q })

/-- A load overwrites its field: what an adjust left there before the load has no trace after it. From rule R275. -/
def Obligations.LoadOverwritesAnAdjust : Prop :=
  ∀ (s s1 : State) (x : Byte), AccessSucceeds s s1 →
    exec .lLoadH { s with hours := x } = exec .lLoadH s ∧ exec .lLoadM { s with minutes := x } = exec .lLoadM s
      ∧ exec .lLoadS { s with seconds := x } = exec .lLoadS s

/-- STATUS and ERR_CAUSE show the state as the table of rule R31 says; STATUS[7:6] reads 0. -/
def Obligations.StatusPortShowsTheState : Prop :=
  ∀ s : State,
    (s.statusPort.getLsbD 0 = true ↔ s.powerState = .on)
      ∧ s.statusPort.extractLsb' 1 2 = progBits s.progState
      ∧ s.statusPort.getLsbD 3 = s.errFlags.getLsbD 0 ∧ s.statusPort.getLsbD 4 = s.errFlags.getLsbD 1
      ∧ s.statusPort.getLsbD 5 = s.errFlags.getLsbD 2 ∧ s.statusPort.extractLsb' 6 2 = 0#2
      ∧ s.errCausePort = s.errCause

/-! ## Configurations -/

/-- A configuration is parameters that meet the five conditions of rule R8, and ill-formed parameters are refused: they give no
configuration. -/
def Obligations.ConfigurationsAreTheWellFormedParameters : Prop :=
  ∀ p : Parameters,
    ((∃ c, Config.ofParameters p = some c ∧ c.par = p) ↔
      (p.n = 2 ∨ p.n = 4 ∨ p.n = 6)
        ∧ (∀ f d pos, p.tubeMap.at f d = some pos → 1 ≤ pos ∧ pos ≤ p.n)
        ∧ (∀ f d f' d' pos, p.tubeMap.at f d = some pos → p.tubeMap.at f' d' = some pos → f = f' ∧ d = d')
        ∧ (∀ f, p.tubeMap.at f .tens = none ↔ p.tubeMap.at f .ones = none)
        ∧ p.rtcOffH ≠ p.rtcOffM ∧ p.rtcOffH ≠ p.rtcOffS ∧ p.rtcOffH ≠ p.rtcOffCtrl ∧ p.rtcOffM ≠ p.rtcOffS
        ∧ p.rtcOffM ≠ p.rtcOffCtrl ∧ p.rtcOffS ≠ p.rtcOffCtrl)
      ∧ ((¬ ∃ c, Config.ofParameters p = some c ∧ c.par = p) → Config.ofParameters p = none)

/-- The parameters that rule R7 fixes for this hardware: it seeds at reset, starts with the power ON, and its collaborators do
not fail. -/
def Obligations.HardwareSeedsStartsOnAndDoesNotFail : Prop :=
  State.reset.cfg.par.seedOnReset = true ∧ State.reset.cfg.par.powerReset = .on
    ∧ State.reset.cfg.par.collabCanFail = false ∧ State.reset.powerState = .on

/-! ## Reset, and runs -/

/-- What reset leaves, for every configuration, in the state after reset and after the reset input: the table of 10_state.md rule
R33, with the empty history of 70_reset_and_hazards.md rule R270.
(The environment's fields and the internal port's answer are the model's own and have no clause: log entries 3 to 7 and 15.) -/
def Obligations.ResetValues : Prop :=
  (∀ c : Config, (State.resetOf c).cfg = c) ∧ State.reset = State.resetOf Config.hardware
    ∧ ∀ (s r : State) (rest : List Turn),
      (r = State.resetOf s.cfg ∨ (s.turns = .reset :: rest ∧ step s = .next r)) →
      r.cfg = s.cfg ∧ r.powerState = s.cfg.par.powerReset ∧ r.progState = .notProg
        ∧ r.hours = 0#8 ∧ r.minutes = 0#8 ∧ r.seconds = 0#8
        ∧ r.tubeBuf = List.replicate s.cfg.par.n 0xF#4 ∧ r.blankBuf = List.replicate s.cfg.par.n 0xF#4
        ∧ r.lastTx = [] ∧ r.seqPc = 0x00#5 ∧ r.pSnap = .off ∧ r.qSnap = .notProg
        ∧ r.errFlags = 0#3 ∧ r.errCause = 0#4 ∧ r.history = []

/-- The invariant of Safety.lean holds right after reset, of every configuration. From rules R33 and R34. -/
def Obligations.InvariantHoldsAtReset : Prop :=
  (∀ c : Config, Inv (State.resetOf c)) ∧ Inv State.reset

/-- Every step keeps the invariant: fields in 0..165, the blank buffer all OFF, an error cause exactly when an error flag, no
PackingError, the sequencer on a path that its snapshots allow, only allowed accesses, one control write, `last_tx` the last
transmit. From rules R34, R26, R27, R175, R244 and R257. -/
def Obligations.EveryStepKeepsTheInvariant : Prop :=
  ∀ s t : State, Inv s → step s = .next t → Inv t

/-- The block never stops: from a state that meets the invariant, every number of steps can be taken, whatever the environment
does, and the invariant holds at the end. From rules R200 and R245. -/
def Obligations.TheBlockNeverStops : Prop :=
  ∀ (s : State) (n : Nat), Inv s → SafeRun n s ∧ ∀ t, core.run n s = .next t → Inv t

/-- Boot order: with no event in between, reset is followed by the control write, by the three seed writes if SEED_ON_RESET, and by
the first L_POWER, with nothing transmitted yet. From rules R272 and R200. -/
def Obligations.BootWritesControlThenSeeds : Prop :=
  ∀ (c : Config) (rest : List Turn), c.par.collabCanFail = false →
    (c.par.seedOnReset = true → ∃ t, core.run 4 { State.resetOf c with turns := sequencerTurns 4 ++ rest } = .next t
        ∧ t = { State.resetOf c with turns := rest, seqPc := 0x04#5, history := t.history }
        ∧ t.history = [.rtcWrite c.par.rtcOffCtrl c.par.ctrl24hValue, .rtcWrite c.par.rtcOffH c.par.seedH,
            .rtcWrite c.par.rtcOffM c.par.seedM, .rtcWrite c.par.rtcOffS c.par.seedS])
      ∧ (c.par.seedOnReset = false → ∃ t, core.run 1 { State.resetOf c with turns := sequencerTurns 1 ++ rest } = .next t
        ∧ t = { State.resetOf c with turns := rest, seqPc := 0x04#5, history := t.history }
        ∧ t.history = [.rtcWrite c.par.rtcOffCtrl c.par.ctrl24hValue])

/-- A powered-off iteration with no event in between: three steps, no Time Source access, one transmit of `ceil(N/2)` bytes of
0xFF, and the fields, the programming state and the logical buffer as before. First row of rule R224. -/
def Obligations.PoweredOffIteration : Prop :=
  ∀ (s : State) (rest : List Turn), s.seqPc = 0x04#5 → s.powerState = .off → s.cfg.par.collabCanFail = false →
    s.turns = sequencerTurns 3 ++ rest →
    core.run 3 s = .next { s with
      turns := rest, pSnap := .off, blankBuf := List.replicate s.cfg.par.n 0xF#4,
      lastTx := List.replicate ((s.cfg.par.n + 1) / 2) 0xFF#8,
      history := s.history ++ [.transmit (List.replicate ((s.cfg.par.n + 1) / 2) 0xFF#8) s.cfg.par.serialMsbFirst] }

/-- A powered-on iteration in NOT_PROG with no event in between: ten steps, the reads H, M, S, the fields loaded with the values
read, the tubes showing the digits of the fields at their mapped positions and OFF elsewhere, and one transmit of the whole
logical buffer. Second row of rule R224. -/
def Obligations.LoadingIteration : Prop :=
  ∀ (s : State) (rest : List Turn) (bh bm bs : Byte) (restReads : List Byte),
    s.seqPc = 0x04#5 → s.powerState = .on → s.progState = .notProg → s.cfg.par.collabCanFail = false →
    s.turns = sequencerTurns 10 ++ rest → s.reads = bh :: bm :: bs :: restReads →
    ∃ (img : List Nibble) (out : List Byte),
      core.run 10 s = .next { s with
        turns := rest, reads := restReads, pSnap := .on, qSnap := .notProg,
        hours := toPlain bh, minutes := toPlain bm, seconds := toPlain bs, tubeBuf := img, lastTx := out,
        history := s.history ++ [.rtcRead s.cfg.par.rtcOffH bh, .rtcRead s.cfg.par.rtcOffM bm,
          .rtcRead s.cfg.par.rtcOffS bs, .transmit out s.cfg.par.serialMsbFirst] }
      ∧ PlacedNibbles img s.cfg.par.n out ∧ img.length = s.cfg.par.n
      ∧ (∀ (f : Field) (v : Byte), ((f = .h ∧ v = toPlain bh) ∨ (f = .m ∧ v = toPlain bm) ∨ (f = .s ∧ v = toPlain bs)) →
          (∀ p, s.cfg.par.tubeMap.at f .tens = some p → img[p - 1]? = some (tensDigit v))
            ∧ (∀ p, s.cfg.par.tubeMap.at f .ones = some p → img[p - 1]? = some (onesDigit v)))
      ∧ (∀ p, 1 ≤ p → p ≤ s.cfg.par.n → (∀ f d, s.cfg.par.tubeMap.at f d ≠ some p) → img[p - 1]? = some 0xF#4)

/-- A powered-on iteration in an editing state with no event in between: ten steps, three writes in the write-back order of the
editing state, the fields unchanged, the tubes showing their digits, and one transmit. Third row of rule R224. -/
def Obligations.EditingIteration : Prop :=
  ∀ (s : State) (rest : List Turn) (f1 f2 f3 : Field),
    s.seqPc = 0x04#5 → s.powerState = .on → s.cfg.par.collabCanFail = false → s.turns = sequencerTurns 10 ++ rest →
    ((s.progState = .editH ∧ f1 = .h ∧ f2 = .m ∧ f3 = .s) ∨ (s.progState = .editM ∧ f1 = .m ∧ f2 = .h ∧ f3 = .s)
      ∨ (s.progState = .editS ∧ f1 = .s ∧ f2 = .h ∧ f3 = .m)) →
    ∃ (img : List Nibble) (out : List Byte),
      core.run 10 s = .next { s with
        turns := rest, pSnap := .on, qSnap := s.progState, tubeBuf := img, lastTx := out,
        history := s.history ++ [.rtcWrite (s.cfg.par.rtcOff f1) (toReg (s.field f1)),
          .rtcWrite (s.cfg.par.rtcOff f2) (toReg (s.field f2)), .rtcWrite (s.cfg.par.rtcOff f3) (toReg (s.field f3)),
          .transmit out s.cfg.par.serialMsbFirst] }
      ∧ PlacedNibbles img s.cfg.par.n out ∧ img.length = s.cfg.par.n
      ∧ (∀ f : Field, (∀ p, s.cfg.par.tubeMap.at f .tens = some p → img[p - 1]? = some (tensDigit (s.field f)))
          ∧ (∀ p, s.cfg.par.tubeMap.at f .ones = some p → img[p - 1]? = some (onesDigit (s.field f))))
      ∧ (∀ p, 1 ≤ p → p ≤ s.cfg.par.n → (∀ f d, s.cfg.par.tubeMap.at f d ≠ some p) → img[p - 1]? = some 0xF#4)

/-- A mode event before the first step of the sequencer, with POWER_RESET = ON: the first iteration takes the write-back path and
writes the reset fields, 00:00:00, to the Time Source. Rule R274. -/
def Obligations.EventDuringBootMakesTheFirstIterationWriteZeros : Prop :=
  ∀ (c : Config) (rest : List Turn), c.par.collabCanFail = false → c.par.powerReset = .on → c.par.seedOnReset = true →
    ∃ t, core.run 10 { State.resetOf c with turns := .event 0x50#8 :: (sequencerTurns 9 ++ rest) } = .next t
      ∧ t.progState = .editH ∧ t.qSnap = .editH ∧ t.seqPc = 0x0E#5 ∧ t.turns = rest
      ∧ t.history = [.rtcWrite c.par.rtcOffCtrl c.par.ctrl24hValue, .rtcWrite c.par.rtcOffH c.par.seedH,
          .rtcWrite c.par.rtcOffM c.par.seedM, .rtcWrite c.par.rtcOffS c.par.seedS,
          .rtcWrite c.par.rtcOffH 0x00#8, .rtcWrite c.par.rtcOffM 0x00#8, .rtcWrite c.par.rtcOffS 0x00#8]
end

