-- ==== Sys2Proof/Laws/State.lean ====
section
/-! SUPPORT. One lemma per field per update of the state, so that no later proof unfolds a record update. -/

namespace Sys2Proof.Machine

variable (s : State)

/-! `State.goto` -/

section
variable (code : BitVec 5)
@[simp] theorem State.goto_cfg : (s.goto code).cfg = s.cfg := rfl
@[simp] theorem State.goto_powerState : (s.goto code).powerState = s.powerState := rfl
@[simp] theorem State.goto_progState : (s.goto code).progState = s.progState := rfl
@[simp] theorem State.goto_hours : (s.goto code).hours = s.hours := rfl
@[simp] theorem State.goto_minutes : (s.goto code).minutes = s.minutes := rfl
@[simp] theorem State.goto_seconds : (s.goto code).seconds = s.seconds := rfl
@[simp] theorem State.goto_tubeBuf : (s.goto code).tubeBuf = s.tubeBuf := rfl
@[simp] theorem State.goto_blankBuf : (s.goto code).blankBuf = s.blankBuf := rfl
@[simp] theorem State.goto_lastTx : (s.goto code).lastTx = s.lastTx := rfl
@[simp] theorem State.goto_seqPc : (s.goto code).seqPc = code := rfl
@[simp] theorem State.goto_pSnap : (s.goto code).pSnap = s.pSnap := rfl
@[simp] theorem State.goto_qSnap : (s.goto code).qSnap = s.qSnap := rfl
@[simp] theorem State.goto_errFlags : (s.goto code).errFlags = s.errFlags := rfl
@[simp] theorem State.goto_errCause : (s.goto code).errCause = s.errCause := rfl
@[simp] theorem State.goto_history : (s.goto code).history = s.history := rfl
@[simp] theorem State.goto_portResult : (s.goto code).portResult = s.portResult := rfl
@[simp] theorem State.goto_turns : (s.goto code).turns = s.turns := rfl
@[simp] theorem State.goto_reads : (s.goto code).reads = s.reads := rfl
@[simp] theorem State.goto_accessOks : (s.goto code).accessOks = s.accessOks := rfl
@[simp] theorem State.goto_draws : (s.goto code).draws = s.draws := rfl
end

/-! `State.setLastTx` -/

section
variable (bytes : List Byte)
@[simp] theorem State.setLastTx_cfg : (s.setLastTx bytes).cfg = s.cfg := rfl
@[simp] theorem State.setLastTx_powerState : (s.setLastTx bytes).powerState = s.powerState := rfl
@[simp] theorem State.setLastTx_progState : (s.setLastTx bytes).progState = s.progState := rfl
@[simp] theorem State.setLastTx_hours : (s.setLastTx bytes).hours = s.hours := rfl
@[simp] theorem State.setLastTx_minutes : (s.setLastTx bytes).minutes = s.minutes := rfl
@[simp] theorem State.setLastTx_seconds : (s.setLastTx bytes).seconds = s.seconds := rfl
@[simp] theorem State.setLastTx_tubeBuf : (s.setLastTx bytes).tubeBuf = s.tubeBuf := rfl
@[simp] theorem State.setLastTx_blankBuf : (s.setLastTx bytes).blankBuf = s.blankBuf := rfl
@[simp] theorem State.setLastTx_lastTx : (s.setLastTx bytes).lastTx = bytes := rfl
@[simp] theorem State.setLastTx_seqPc : (s.setLastTx bytes).seqPc = s.seqPc := rfl
@[simp] theorem State.setLastTx_pSnap : (s.setLastTx bytes).pSnap = s.pSnap := rfl
@[simp] theorem State.setLastTx_qSnap : (s.setLastTx bytes).qSnap = s.qSnap := rfl
@[simp] theorem State.setLastTx_errFlags : (s.setLastTx bytes).errFlags = s.errFlags := rfl
@[simp] theorem State.setLastTx_errCause : (s.setLastTx bytes).errCause = s.errCause := rfl
@[simp] theorem State.setLastTx_history : (s.setLastTx bytes).history = s.history := rfl
@[simp] theorem State.setLastTx_portResult : (s.setLastTx bytes).portResult = s.portResult := rfl
@[simp] theorem State.setLastTx_turns : (s.setLastTx bytes).turns = s.turns := rfl
@[simp] theorem State.setLastTx_reads : (s.setLastTx bytes).reads = s.reads := rfl
@[simp] theorem State.setLastTx_accessOks : (s.setLastTx bytes).accessOks = s.accessOks := rfl
@[simp] theorem State.setLastTx_draws : (s.setLastTx bytes).draws = s.draws := rfl
end

/-! `State.record` -/

section
variable (a : Access)
@[simp] theorem State.record_cfg : (s.record a).cfg = s.cfg := rfl
@[simp] theorem State.record_powerState : (s.record a).powerState = s.powerState := rfl
@[simp] theorem State.record_progState : (s.record a).progState = s.progState := rfl
@[simp] theorem State.record_hours : (s.record a).hours = s.hours := rfl
@[simp] theorem State.record_minutes : (s.record a).minutes = s.minutes := rfl
@[simp] theorem State.record_seconds : (s.record a).seconds = s.seconds := rfl
@[simp] theorem State.record_tubeBuf : (s.record a).tubeBuf = s.tubeBuf := rfl
@[simp] theorem State.record_blankBuf : (s.record a).blankBuf = s.blankBuf := rfl
@[simp] theorem State.record_lastTx : (s.record a).lastTx = s.lastTx := rfl
@[simp] theorem State.record_seqPc : (s.record a).seqPc = s.seqPc := rfl
@[simp] theorem State.record_pSnap : (s.record a).pSnap = s.pSnap := rfl
@[simp] theorem State.record_qSnap : (s.record a).qSnap = s.qSnap := rfl
@[simp] theorem State.record_errFlags : (s.record a).errFlags = s.errFlags := rfl
@[simp] theorem State.record_errCause : (s.record a).errCause = s.errCause := rfl
@[simp] theorem State.record_history : (s.record a).history = s.history ++ [a] := rfl
@[simp] theorem State.record_portResult : (s.record a).portResult = s.portResult := rfl
@[simp] theorem State.record_turns : (s.record a).turns = s.turns := rfl
@[simp] theorem State.record_reads : (s.record a).reads = s.reads := rfl
@[simp] theorem State.record_accessOks : (s.record a).accessOks = s.accessOks := rfl
@[simp] theorem State.record_draws : (s.record a).draws = s.draws := rfl
end

/-! `State.raise` -/

section
variable (c : Cause)
@[simp] theorem State.raise_cfg : (s.raise c).cfg = s.cfg := rfl
@[simp] theorem State.raise_powerState : (s.raise c).powerState = s.powerState := rfl
@[simp] theorem State.raise_progState : (s.raise c).progState = s.progState := rfl
@[simp] theorem State.raise_hours : (s.raise c).hours = s.hours := rfl
@[simp] theorem State.raise_minutes : (s.raise c).minutes = s.minutes := rfl
@[simp] theorem State.raise_seconds : (s.raise c).seconds = s.seconds := rfl
@[simp] theorem State.raise_tubeBuf : (s.raise c).tubeBuf = s.tubeBuf := rfl
@[simp] theorem State.raise_blankBuf : (s.raise c).blankBuf = s.blankBuf := rfl
@[simp] theorem State.raise_lastTx : (s.raise c).lastTx = s.lastTx := rfl
@[simp] theorem State.raise_seqPc : (s.raise c).seqPc = s.seqPc := rfl
@[simp] theorem State.raise_pSnap : (s.raise c).pSnap = s.pSnap := rfl
@[simp] theorem State.raise_qSnap : (s.raise c).qSnap = s.qSnap := rfl
@[simp] theorem State.raise_errFlags : (s.raise c).errFlags = errFlagsAfter c s.errFlags := rfl
@[simp] theorem State.raise_errCause : (s.raise c).errCause = errCauseAfter c s.errCause := rfl
@[simp] theorem State.raise_history : (s.raise c).history = s.history := rfl
@[simp] theorem State.raise_portResult : (s.raise c).portResult = s.portResult := rfl
@[simp] theorem State.raise_turns : (s.raise c).turns = s.turns := rfl
@[simp] theorem State.raise_reads : (s.raise c).reads = s.reads := rfl
@[simp] theorem State.raise_accessOks : (s.raise c).accessOks = s.accessOks := rfl
@[simp] theorem State.raise_draws : (s.raise c).draws = s.draws := rfl
end

/-! `State.answer` -/

section
variable (r : PortResult)
@[simp] theorem State.answer_cfg : (s.answer r).cfg = s.cfg := rfl
@[simp] theorem State.answer_powerState : (s.answer r).powerState = s.powerState := rfl
@[simp] theorem State.answer_progState : (s.answer r).progState = s.progState := rfl
@[simp] theorem State.answer_hours : (s.answer r).hours = s.hours := rfl
@[simp] theorem State.answer_minutes : (s.answer r).minutes = s.minutes := rfl
@[simp] theorem State.answer_seconds : (s.answer r).seconds = s.seconds := rfl
@[simp] theorem State.answer_tubeBuf : (s.answer r).tubeBuf = s.tubeBuf := rfl
@[simp] theorem State.answer_blankBuf : (s.answer r).blankBuf = s.blankBuf := rfl
@[simp] theorem State.answer_lastTx : (s.answer r).lastTx = s.lastTx := rfl
@[simp] theorem State.answer_seqPc : (s.answer r).seqPc = s.seqPc := rfl
@[simp] theorem State.answer_pSnap : (s.answer r).pSnap = s.pSnap := rfl
@[simp] theorem State.answer_qSnap : (s.answer r).qSnap = s.qSnap := rfl
@[simp] theorem State.answer_errFlags : (s.answer r).errFlags = s.errFlags := rfl
@[simp] theorem State.answer_errCause : (s.answer r).errCause = s.errCause := rfl
@[simp] theorem State.answer_history : (s.answer r).history = s.history := rfl
@[simp] theorem State.answer_portResult : (s.answer r).portResult = r := rfl
@[simp] theorem State.answer_turns : (s.answer r).turns = s.turns := rfl
@[simp] theorem State.answer_reads : (s.answer r).reads = s.reads := rfl
@[simp] theorem State.answer_accessOks : (s.answer r).accessOks = s.accessOks := rfl
@[simp] theorem State.answer_draws : (s.answer r).draws = s.draws := rfl
end

/-! `State.storeHms` -/

section
variable (x : Hms)
@[simp] theorem State.storeHms_cfg : (s.storeHms x).cfg = s.cfg := rfl
@[simp] theorem State.storeHms_powerState : (s.storeHms x).powerState = s.powerState := rfl
@[simp] theorem State.storeHms_progState : (s.storeHms x).progState = s.progState := rfl
@[simp] theorem State.storeHms_hours : (s.storeHms x).hours = BitVec.ofInt 8 x.h := rfl
@[simp] theorem State.storeHms_minutes : (s.storeHms x).minutes = BitVec.ofInt 8 x.m := rfl
@[simp] theorem State.storeHms_seconds : (s.storeHms x).seconds = BitVec.ofInt 8 x.s := rfl
@[simp] theorem State.storeHms_tubeBuf : (s.storeHms x).tubeBuf = s.tubeBuf := rfl
@[simp] theorem State.storeHms_blankBuf : (s.storeHms x).blankBuf = s.blankBuf := rfl
@[simp] theorem State.storeHms_lastTx : (s.storeHms x).lastTx = s.lastTx := rfl
@[simp] theorem State.storeHms_seqPc : (s.storeHms x).seqPc = s.seqPc := rfl
@[simp] theorem State.storeHms_pSnap : (s.storeHms x).pSnap = s.pSnap := rfl
@[simp] theorem State.storeHms_qSnap : (s.storeHms x).qSnap = s.qSnap := rfl
@[simp] theorem State.storeHms_errFlags : (s.storeHms x).errFlags = s.errFlags := rfl
@[simp] theorem State.storeHms_errCause : (s.storeHms x).errCause = s.errCause := rfl
@[simp] theorem State.storeHms_history : (s.storeHms x).history = s.history := rfl
@[simp] theorem State.storeHms_portResult : (s.storeHms x).portResult = s.portResult := rfl
@[simp] theorem State.storeHms_turns : (s.storeHms x).turns = s.turns := rfl
@[simp] theorem State.storeHms_reads : (s.storeHms x).reads = s.reads := rfl
@[simp] theorem State.storeHms_accessOks : (s.storeHms x).accessOks = s.accessOks := rfl
@[simp] theorem State.storeHms_draws : (s.storeHms x).draws = s.draws := rfl
end

/-! `State.actPowerToggle` -/

@[simp] theorem State.actPowerToggle_cfg : s.actPowerToggle.cfg = s.cfg := rfl
@[simp] theorem State.actPowerToggle_powerState : s.actPowerToggle.powerState = flipPower s.powerState := rfl
@[simp] theorem State.actPowerToggle_progState : s.actPowerToggle.progState = s.progState := rfl
@[simp] theorem State.actPowerToggle_hours : s.actPowerToggle.hours = s.hours := rfl
@[simp] theorem State.actPowerToggle_minutes : s.actPowerToggle.minutes = s.minutes := rfl
@[simp] theorem State.actPowerToggle_seconds : s.actPowerToggle.seconds = s.seconds := rfl
@[simp] theorem State.actPowerToggle_tubeBuf : s.actPowerToggle.tubeBuf = s.tubeBuf := rfl
@[simp] theorem State.actPowerToggle_blankBuf : s.actPowerToggle.blankBuf = s.blankBuf := rfl
@[simp] theorem State.actPowerToggle_lastTx : s.actPowerToggle.lastTx = s.lastTx := rfl
@[simp] theorem State.actPowerToggle_seqPc : s.actPowerToggle.seqPc = s.seqPc := rfl
@[simp] theorem State.actPowerToggle_pSnap : s.actPowerToggle.pSnap = s.pSnap := rfl
@[simp] theorem State.actPowerToggle_qSnap : s.actPowerToggle.qSnap = s.qSnap := rfl
@[simp] theorem State.actPowerToggle_errFlags : s.actPowerToggle.errFlags = s.errFlags := rfl
@[simp] theorem State.actPowerToggle_errCause : s.actPowerToggle.errCause = s.errCause := rfl
@[simp] theorem State.actPowerToggle_history : s.actPowerToggle.history = s.history := rfl
@[simp] theorem State.actPowerToggle_portResult : s.actPowerToggle.portResult = s.portResult := rfl
@[simp] theorem State.actPowerToggle_turns : s.actPowerToggle.turns = s.turns := rfl
@[simp] theorem State.actPowerToggle_reads : s.actPowerToggle.reads = s.reads := rfl
@[simp] theorem State.actPowerToggle_accessOks : s.actPowerToggle.accessOks = s.accessOks := rfl
@[simp] theorem State.actPowerToggle_draws : s.actPowerToggle.draws = s.draws := rfl

/-! `State.setField` -/

section
variable (f : Field) (v : Byte)
@[simp] theorem State.setField_cfg : (s.setField f v).cfg = s.cfg := by cases f <;> rfl
@[simp] theorem State.setField_powerState : (s.setField f v).powerState = s.powerState := by cases f <;> rfl
@[simp] theorem State.setField_progState : (s.setField f v).progState = s.progState := by cases f <;> rfl
@[simp] theorem State.setField_hours : (s.setField f v).hours = if f = .h then v else s.hours := by cases f <;> rfl
@[simp] theorem State.setField_minutes : (s.setField f v).minutes = if f = .m then v else s.minutes := by cases f <;> rfl
@[simp] theorem State.setField_seconds : (s.setField f v).seconds = if f = .s then v else s.seconds := by cases f <;> rfl
@[simp] theorem State.setField_tubeBuf : (s.setField f v).tubeBuf = s.tubeBuf := by cases f <;> rfl
@[simp] theorem State.setField_blankBuf : (s.setField f v).blankBuf = s.blankBuf := by cases f <;> rfl
@[simp] theorem State.setField_lastTx : (s.setField f v).lastTx = s.lastTx := by cases f <;> rfl
@[simp] theorem State.setField_seqPc : (s.setField f v).seqPc = s.seqPc := by cases f <;> rfl
@[simp] theorem State.setField_pSnap : (s.setField f v).pSnap = s.pSnap := by cases f <;> rfl
@[simp] theorem State.setField_qSnap : (s.setField f v).qSnap = s.qSnap := by cases f <;> rfl
@[simp] theorem State.setField_errFlags : (s.setField f v).errFlags = s.errFlags := by cases f <;> rfl
@[simp] theorem State.setField_errCause : (s.setField f v).errCause = s.errCause := by cases f <;> rfl
@[simp] theorem State.setField_history : (s.setField f v).history = s.history := by cases f <;> rfl
@[simp] theorem State.setField_portResult : (s.setField f v).portResult = s.portResult := by cases f <;> rfl
@[simp] theorem State.setField_turns : (s.setField f v).turns = s.turns := by cases f <;> rfl
@[simp] theorem State.setField_reads : (s.setField f v).reads = s.reads := by cases f <;> rfl
@[simp] theorem State.setField_accessOks : (s.setField f v).accessOks = s.accessOks := by cases f <;> rfl
@[simp] theorem State.setField_draws : (s.setField f v).draws = s.draws := by cases f <;> rfl
end

/-! `State.setBuf` -/

section
variable (sel : BufSel) (b : List Nibble)
@[simp] theorem State.setBuf_cfg : (s.setBuf sel b).cfg = s.cfg := by cases sel <;> rfl
@[simp] theorem State.setBuf_powerState : (s.setBuf sel b).powerState = s.powerState := by cases sel <;> rfl
@[simp] theorem State.setBuf_progState : (s.setBuf sel b).progState = s.progState := by cases sel <;> rfl
@[simp] theorem State.setBuf_hours : (s.setBuf sel b).hours = s.hours := by cases sel <;> rfl
@[simp] theorem State.setBuf_minutes : (s.setBuf sel b).minutes = s.minutes := by cases sel <;> rfl
@[simp] theorem State.setBuf_seconds : (s.setBuf sel b).seconds = s.seconds := by cases sel <;> rfl
@[simp] theorem State.setBuf_tubeBuf : (s.setBuf sel b).tubeBuf = if sel = .tube then b else s.tubeBuf := by cases sel <;> rfl
@[simp] theorem State.setBuf_blankBuf : (s.setBuf sel b).blankBuf = if sel = .blank then b else s.blankBuf := by cases sel <;> rfl
@[simp] theorem State.setBuf_lastTx : (s.setBuf sel b).lastTx = s.lastTx := by cases sel <;> rfl
@[simp] theorem State.setBuf_seqPc : (s.setBuf sel b).seqPc = s.seqPc := by cases sel <;> rfl
@[simp] theorem State.setBuf_pSnap : (s.setBuf sel b).pSnap = s.pSnap := by cases sel <;> rfl
@[simp] theorem State.setBuf_qSnap : (s.setBuf sel b).qSnap = s.qSnap := by cases sel <;> rfl
@[simp] theorem State.setBuf_errFlags : (s.setBuf sel b).errFlags = s.errFlags := by cases sel <;> rfl
@[simp] theorem State.setBuf_errCause : (s.setBuf sel b).errCause = s.errCause := by cases sel <;> rfl
@[simp] theorem State.setBuf_history : (s.setBuf sel b).history = s.history := by cases sel <;> rfl
@[simp] theorem State.setBuf_portResult : (s.setBuf sel b).portResult = s.portResult := by cases sel <;> rfl
@[simp] theorem State.setBuf_turns : (s.setBuf sel b).turns = s.turns := by cases sel <;> rfl
@[simp] theorem State.setBuf_reads : (s.setBuf sel b).reads = s.reads := by cases sel <;> rfl
@[simp] theorem State.setBuf_accessOks : (s.setBuf sel b).accessOks = s.accessOks := by cases sel <;> rfl
@[simp] theorem State.setBuf_draws : (s.setBuf sel b).draws = s.draws := by cases sel <;> rfl

@[simp] theorem State.buf_setBuf_self : (s.setBuf sel b).buf sel = b := by cases sel <;> rfl
@[simp] theorem State.buf_tube : s.buf .tube = s.tubeBuf := rfl
@[simp] theorem State.buf_blank : s.buf .blank = s.blankBuf := rfl
end

@[simp] theorem State.field_h : s.field .h = s.hours := rfl
@[simp] theorem State.field_m : s.field .m = s.minutes := rfl
@[simp] theorem State.field_s : s.field .s = s.seconds := rfl

end Sys2Proof.Machine
end

