-- ==== Sys2Proof/Laws/Events.lean ====
section
/-! SUPPORT. What the cascades and the event actions can do, said once. -/

namespace Sys2Proof.Machine

/-- CARRY_CASCADE: the minutes `m1` and hours `h1` after the carries, and the three results, as linear facts. -/
theorem carryCascade_spec (t : Hms) : ∃ m1 h1 : Int,
    ((t.s ≥ 60 ∧ m1 = t.m + 1 ∧ (carryCascade t).s = t.s - 60) ∨ (t.s < 60 ∧ m1 = t.m ∧ (carryCascade t).s = t.s))
      ∧ ((m1 ≥ 60 ∧ h1 = t.h + 1 ∧ (carryCascade t).m = m1 - 60) ∨ (m1 < 60 ∧ h1 = t.h ∧ (carryCascade t).m = m1))
      ∧ ((h1 ≥ 24 ∧ (carryCascade t).h = 0) ∨ (h1 < 24 ∧ (carryCascade t).h = h1)) := by
  refine ⟨if t.s ≥ 60 then t.m + 1 else t.m,
    if (if t.s ≥ 60 then t.m + 1 else t.m) ≥ 60 then t.h + 1 else t.h, ?_⟩
  unfold carryCascade
  by_cases h1 : t.s ≥ 60
  · by_cases h2 : t.m + 1 ≥ 60
    · by_cases h3 : t.h + 1 ≥ 24 <;> simp [h1, h2, h3] <;> omega
    · by_cases h3 : t.h ≥ 24 <;> simp [h1, h2, h3] <;> omega
  · by_cases h2 : t.m ≥ 60
    · by_cases h3 : t.h + 1 ≥ 24 <;> simp [h1, h2, h3] <;> omega
    · by_cases h3 : t.h ≥ 24 <;> simp [h1, h2, h3] <;> omega

/-- BORROW_CASCADE: the minutes `m1` and hours `h1` after the borrows, and the three results, as linear facts. -/
theorem borrowCascade_spec (t : Hms) : ∃ m1 h1 : Int,
    ((t.s < 0 ∧ m1 = t.m - 1 ∧ (borrowCascade t).s = 59) ∨ (t.s ≥ 0 ∧ m1 = t.m ∧ (borrowCascade t).s = t.s))
      ∧ ((m1 < 0 ∧ h1 = t.h - 1 ∧ (borrowCascade t).m = 59) ∨ (m1 ≥ 0 ∧ h1 = t.h ∧ (borrowCascade t).m = m1))
      ∧ ((h1 < 0 ∧ (borrowCascade t).h = 23) ∨ (h1 ≥ 0 ∧ (borrowCascade t).h = h1)) := by
  refine ⟨if t.s < 0 then t.m - 1 else t.m,
    if (if t.s < 0 then t.m - 1 else t.m) < 0 then t.h - 1 else t.h, ?_⟩
  unfold borrowCascade
  by_cases h1 : t.s < 0
  · by_cases h2 : t.m - 1 < 0
    · by_cases h3 : t.h - 1 < 0 <;> simp [h1, h2, h3] <;> omega
    · by_cases h3 : t.h < 0 <;> simp [h1, h2, h3] <;> omega
  · by_cases h2 : t.m < 0
    · by_cases h3 : t.h - 1 < 0 <;> simp [h1, h2, h3] <;> omega
    · by_cases h3 : t.h < 0 <;> simp [h1, h2, h3] <;> omega

/-- The active field takes `d`, the others nothing (rule R171). -/
theorem bumpField_spec (q : ProgState) (d : Int) (t : Hms) :
    (q = .notProg ∧ bumpField q d t = t) ∨ (q = .editH ∧ bumpField q d t = ⟨t.h + d, t.m, t.s⟩)
      ∨ (q = .editM ∧ bumpField q d t = ⟨t.h, t.m + d, t.s⟩) ∨ (q = .editS ∧ bumpField q d t = ⟨t.h, t.m, t.s + d⟩) := by
  cases q <;> simp [bumpField]

/-- An integer in 0..255 keeps its value in a field register (rule R173: no store truncates). -/
theorem toNat_ofInt_field (a : Int) (h : 0 ≤ a ∧ a < 256) : ((BitVec.ofInt 8 a).toNat : Int) = a := by
  simp only [BitVec.toNat_ofInt]
  omega

variable (s : State)

/-- An adjust plus writes only the three fields. -/
theorem State.actAdjustPlus_frame :
    s.actAdjustPlus = { s with hours := s.actAdjustPlus.hours, minutes := s.actAdjustPlus.minutes,
                               seconds := s.actAdjustPlus.seconds } := by
  unfold State.actAdjustPlus
  split <;> rfl

/-- An adjust minus writes only the three fields. -/
theorem State.actAdjustMinus_frame :
    s.actAdjustMinus = { s with hours := s.actAdjustMinus.hours, minutes := s.actAdjustMinus.minutes,
                                seconds := s.actAdjustMinus.seconds } := by
  unfold State.actAdjustMinus
  split <;> rfl

/-- A mode event writes only `prog_state`. -/
theorem State.actCycleMode_frame : s.actCycleMode = { s with progState := s.actCycleMode.progState } := by
  unfold State.actCycleMode
  split <;> rfl

/-- In NOT_PROG an adjust has no effect (rules R167, R168). -/
theorem State.actAdjust_notProg (h : s.progState = .notProg) : s.actAdjustPlus = s ∧ s.actAdjustMinus = s := by
  simp [State.actAdjustPlus, State.actAdjustMinus, h]

/-- In an editing state an adjust stores the cascade's result (rules R167, R168). -/
theorem State.actAdjust_editing (h : s.progState ≠ .notProg) :
    s.actAdjustPlus = s.storeHms (carryCascade (bumpField s.progState 1 s.hms))
      ∧ s.actAdjustMinus = s.storeHms (borrowCascade (bumpField s.progState (-1) s.hms)) := by
  simp [State.actAdjustPlus, State.actAdjustMinus, h]

/-- An event instruction writes only the power state, the programming state and the three fields. -/
theorem exec_event_frame (i : Instr) (t : State) (hi : i.isEvent = true) (h : exec i s = .next t) :
    t = { s with powerState := t.powerState, progState := t.progState, hours := t.hours, minutes := t.minutes,
                 seconds := t.seconds } := by
  have plus : ∀ u : State, u.actAdjustPlus.powerState = u.powerState ∧ u.actAdjustPlus.progState = u.progState :=
    fun u => by rw [State.actAdjustPlus_frame]; exact ⟨rfl, rfl⟩
  have minus : ∀ u : State, u.actAdjustMinus.powerState = u.powerState ∧ u.actAdjustMinus.progState = u.progState :=
    fun u => by rw [State.actAdjustMinus_frame]; exact ⟨rfl, rfl⟩
  have mode : ∀ u : State, u.actCycleMode = { u with
      powerState := u.actCycleMode.powerState, progState := u.actCycleMode.progState, hours := u.actCycleMode.hours,
      minutes := u.actCycleMode.minutes, seconds := u.actCycleMode.seconds } :=
    fun u => by unfold State.actCycleMode; split <;> rfl
  cases i with
  | pwrPc level => cases h; cases level <;> rfl
  | grpPc p m c =>
    cases h
    cases p <;> cases m <;> cases c <;> simp only [Bool.false_eq_true, if_false, if_true]
    · rw [mode, State.actAdjustMinus_frame, State.actAdjustPlus_frame]
    · rw [State.actAdjustMinus_frame, State.actAdjustPlus_frame]
    · rw [mode, State.actAdjustPlus_frame]
    · rw [State.actAdjustPlus_frame]
    · rw [mode, State.actAdjustMinus_frame]
    · rw [State.actAdjustMinus_frame]
    · rw [mode]
  | pwrFall => cases h; rfl
  | modeFall => cases h; exact mode s
  | plusFall => cases h; rw [State.actAdjustPlus_frame]
  | minusFall => cases h; rw [State.actAdjustMinus_frame]
  | _ => simp [Instr.isEvent] at hi

end Sys2Proof.Machine
end

