-- ==== Sys2Proof/Laws/Ops.lean ====
section
/-! SUPPORT. For each shared operation, what it can do, said once. -/

namespace Sys2Proof.Machine

variable (s : State)

/-! ## What rule R8 gives -/

/-- The five parts of rule R8. -/
theorem Config.parts (c : Config) :
    (c.par.n = 2 ∨ c.par.n = 4 ∨ c.par.n = 6) ∧ c.par.tubeMap.inRange c.par.n = true
      ∧ c.par.tubeMap.injective = true ∧ c.par.tubeMap.paired = true ∧ c.par.offsetsDistinct = true := by
  have h := c.ok
  simp only [Parameters.wf, Bool.and_eq_true] at h
  obtain ⟨⟨⟨⟨h1, h2⟩, h3⟩, h4⟩, h5⟩ := h
  refine ⟨?_, h2, h3, h4, h5⟩
  simpa [Parameters.tubeCountLegal, or_assoc] using h1

/-- A position that the map holds is listed among its positions. -/
theorem TubeMap.at_mem_positions (t : TubeMap) (f : Field) (d : Digit) (p : Nat) (h : t.at f d = some p) :
    p ∈ t.positions := by
  cases f <;> cases d <;> simp_all [TubeMap.at, TubeMap.positions]

/-- Rule R8: a mapped position is in 1..N. -/
theorem Config.position_range (c : Config) (f : Field) (d : Digit) (p : Nat) (h : c.par.tubeMap.at f d = some p) :
    1 ≤ p ∧ p ≤ c.par.n := by
  have hr := (Config.parts c).2.1
  simp only [TubeMap.inRange, List.all_eq_true, decide_eq_true_eq] at hr
  exact hr p (TubeMap.at_mem_positions _ f d p h)

/-- Rule R8: a field has both digits mapped or neither. -/
theorem Config.digits_paired (c : Config) (f : Field) :
    (c.par.tubeMap.at f .tens).isSome = (c.par.tubeMap.at f .ones).isSome := by
  have h := (Config.parts c).2.2.2.1
  simp only [TubeMap.paired, Bool.and_eq_true, beq_iff_eq] at h
  cases f
  · exact h.1.1
  · exact h.1.2
  · exact h.2

/-- Rule R8: the control offset is none of the three time offsets. -/
theorem Config.rtcOff_ne_ctrl (c : Config) (f : Field) : c.par.rtcOff f ≠ c.par.rtcOffCtrl := by
  have h := (Config.parts c).2.2.2.2
  simp only [Parameters.offsetsDistinct, decide_eq_true_eq, List.nodup_cons, List.mem_cons, List.not_mem_nil,
    or_false, not_or] at h
  cases f
  · exact h.1.2.2
  · exact h.2.1.2
  · exact h.2.2.1

/-- Rule R8: no two digits share a tube. -/
theorem Config.positions_distinct (c : Config) (f g : Field) (d e : Digit) (p : Nat)
    (h1 : c.par.tubeMap.at f d = some p) (h2 : c.par.tubeMap.at g e = some p) : f = g ∧ d = e := by
  have h : c.par.tubeMap.positions.Nodup := of_decide_eq_true (Config.parts c).2.2.1
  have hnd : ∀ (l : List (Field × Digit)), ((l.map fun x => c.par.tubeMap.at x.1 x.2).filterMap id).Nodup →
      ∀ a ∈ l, ∀ b ∈ l, ∀ q, c.par.tubeMap.at a.1 a.2 = some q → c.par.tubeMap.at b.1 b.2 = some q → a = b := by
    intro l
    induction l with
    | nil => simp
    | cons x l ih =>
      intro hn a ha b hb q ea eb
      have mem : ∀ y ∈ l, c.par.tubeMap.at y.1 y.2 = some q →
          q ∈ (l.map fun x => c.par.tubeMap.at x.1 x.2).filterMap id :=
        fun y hy e => List.mem_filterMap.2 ⟨some q, List.mem_map.2 ⟨y, hy, e⟩, rfl⟩
      rw [List.map_cons, List.filterMap_cons] at hn
      rcases List.mem_cons.1 ha with rfl | ha'
      · rcases List.mem_cons.1 hb with rfl | hb'
        · rfl
        · simp only [id, ea, List.nodup_cons] at hn
          exact absurd (mem b hb' eb) hn.1
      · rcases List.mem_cons.1 hb with rfl | hb'
        · simp only [id, eb, List.nodup_cons] at hn
          exact absurd (mem a ha' ea) hn.1
        · refine ih ?_ a ha' b hb' q ea eb
          cases hx : c.par.tubeMap.at x.1 x.2 with
          | none => simpa only [id, hx] using hn
          | some r => simp only [id, hx, List.nodup_cons] at hn; exact hn.2
  have key := hnd [(.h, .tens), (.h, .ones), (.m, .tens), (.m, .ones), (.s, .tens), (.s, .ones)] h (f, d)
    (by cases f <;> cases d <;> simp) (g, e) (by cases g <;> cases e <;> simp) p h1 h2
  exact ⟨congrArg Prod.fst key, congrArg Prod.snd key⟩

/-! ## The free draws -/

/-- An access cannot fail where COLLAB_CAN_FAIL is false, and then draws nothing. -/
theorem State.drawOk_cannot_fail (h : s.cfg.par.collabCanFail = false) : s.drawOk = (true, s) := by
  simp [State.drawOk, h]

/-- A draw of an access's success changes only the environment's list and the draw counter. -/
theorem State.drawOk_changes : ∃ oks n, s.drawOk.2 = { s with accessOks := oks, draws := n } := by
  unfold State.drawOk
  split
  · split
    · exact ⟨_, _, rfl⟩
    · exact ⟨_, _, rfl⟩
  · exact ⟨_, _, rfl⟩

/-- Everything that drawing an access's outcome can do: it writes only the environment's list and the counter, and where
accesses cannot fail (rule R202) it succeeds and writes nothing. -/
theorem State.drawOk_spec : ∃ oks n, s.drawOk.2 = { s with accessOks := oks, draws := n }
    ∧ (s.cfg.par.collabCanFail = false → s.drawOk.1 = true ∧ oks = s.accessOks ∧ n = s.draws) := by
  by_cases h : s.cfg.par.collabCanFail = false
  · rw [State.drawOk_cannot_fail s h]; exact ⟨_, _, rfl, fun _ => ⟨rfl, rfl, rfl⟩⟩
  · obtain ⟨oks, n, hd⟩ := State.drawOk_changes s
    exact ⟨oks, n, hd, fun h' => absurd h' h⟩

/-- The event decoder rejects only illegal words (rule R73). -/
theorem decodeEvent_illegal :
    ∀ w : BitVec 8, decodeEvent w = .error (.illegalEvent w) → eventWordLegal w = false := by decide

/-- A failing draw happens only where COLLAB_CAN_FAIL is true. -/
theorem State.drawOk_fails (h : s.drawOk.1 = false) : s.cfg.par.collabCanFail = true := by
  by_contra hc
  rw [State.drawOk_cannot_fail s (by simpa using hc)] at h
  simp at h

/-- A draw of a Time Source byte changes only the environment's list and the draw counter. -/
theorem State.drawByte_changes : ∃ rs n, s.drawByte.2 = { s with reads := rs, draws := n } := by
  unfold State.drawByte
  split
  · exact ⟨_, _, rfl⟩
  · exact ⟨_, _, rfl⟩

/-- Taking the next turn changes only the environment's list and the draw counter. -/
theorem State.nextTurn_changes : ∃ ts n, s.nextTurn.2 = { s with turns := ts, draws := n } := by
  unfold State.nextTurn
  split
  · exact ⟨_, _, rfl⟩
  · split
    · exact ⟨_, _, rfl⟩
    · exact ⟨_, _, rfl⟩

/-- A turn that the state fixes is taken first. -/
theorem State.nextTurn_cons (t : Turn) (rest : List Turn) (h : s.turns = t :: rest) :
    s.nextTurn = (t, { s with turns := rest }) := by
  simp [State.nextTurn, h]

/-- The next turn is the block's, and so are those that remain. -/
theorem State.nextTurn_ok (h : TurnsOk s) : turnIsBlocks s.nextTurn.1 = true ∧ TurnsOk s.nextTurn.2 := by
  unfold State.nextTurn TurnsOk at *
  split
  · rename_i t rest ht
    rw [ht] at h
    exact ⟨h t (by simp), fun u hu => h u (by simp [hu])⟩
  · rename_i ht
    split
    · simp [ht, turnIsBlocks]
    · simp only [turnIsBlocks, List.mem_append, List.mem_map, List.mem_singleton, true_and]
      rintro u (⟨w, _, rfl⟩ | rfl) <;> rfl

/-- TO_PLAIN answers at most 165 (rule R141). -/
theorem toPlain_le : ∀ b : Byte, (toPlain b).toNat ≤ 165 := by decide

/-! ## The buffers -/

/-- One turn of PACK's loop keeps the output's length. -/
@[simp] theorem packElement_length (buf : List Nibble) (out : List Byte) (i : Nat) :
    (packElement buf out i).length = out.length := by
  unfold packElement
  simp only
  split <;> simp

/-- PACK's loop keeps the output's length. -/
theorem packFold_length (buf : List Nibble) (l : List Nat) (out : List Byte) :
    (l.foldl (packElement buf) out).length = out.length := by
  induction l generalizing out with
  | nil => rfl
  | cons i l ih => simp [ih]

/-- PACK returns `ceil(count/2)` bytes. -/
@[simp] theorem packBytes_length (buf : List Nibble) (count : Nat) : (packBytes buf count).length = (count + 1) / 2 := by
  simp [packBytes, packFold_length]

/-- TB_SET_DIGIT in range. -/
theorem State.setDigit_in_range (sel : BufSel) (pos : Nat) (val : Nibble) (h : 1 ≤ pos ∧ pos ≤ s.cfg.par.n) :
    s.setDigit sel pos val = .ok (s.setBuf sel ((s.buf sel).set (pos - 1) val)) := by
  unfold State.setDigit
  rw [if_neg (by omega)]

/-- TB_SET_DIGIT out of range. -/
theorem State.setDigit_out_of_range (sel : BufSel) (pos : Nat) (val : Nibble) (h : pos < 1 ∨ pos > s.cfg.par.n) :
    s.setDigit sel pos val = .error .posRange := by
  unfold State.setDigit
  rw [if_pos h]

/-- PACK of no more than N elements. -/
theorem State.packed_in_range (sel : BufSel) (count : Nat) (h : count ≤ s.cfg.par.n) :
    s.packed sel count = .ok (packBytes (s.buf sel) count) := by
  have : ¬ count > s.cfg.par.n := by omega
  simp [State.packed, this]

/-- Writing one element keeps both buffers' form (10_state.md rule R25). -/
theorem State.setDigit_keeps_lengths (sel : BufSel) (pos : Nat) (val : Nibble) (t : State)
    (h : s.setDigit sel pos val = .ok t) :
    t.tubeBuf.length = s.tubeBuf.length ∧ t.blankBuf.length = s.blankBuf.length := by
  unfold State.setDigit at h
  split at h
  · cases h
  · cases h
    cases sel <;> simp

/-- Clearing a buffer gives it N elements (rule R122). -/
theorem State.clearAll_length (sel : BufSel) : ((s.clearAll sel).buf sel).length = s.cfg.par.n := by
  simp [State.clearAll]

/-! ## The collaborator accesses and the shared parts of the steps -/

/-- A write and its successor step, or the failure's effect; in both cases after the draw. -/
theorem State.rtcWriteThen_cases (off b : Byte) (code : BitVec 5) (onFail : State → State) :
    (s.drawOk.1 = true ∧ s.rtcWriteThen off b code onFail = (s.drawOk.2.record (.rtcWrite off b)).goto code)
      ∨ (s.drawOk.1 = false ∧ s.rtcWriteThen off b code onFail = onFail s.drawOk.2) := by
  unfold State.rtcWriteThen
  cases h : s.drawOk.1 <;> simp [h]

/-- A transmit and its successor step, or the iteration abandoned. -/
theorem State.transmitThenPower_cases (bytes : List Byte) :
    (s.drawOk.1 = true ∧ s.transmitThenPower bytes
        = ((s.drawOk.2.record (.transmit bytes s.cfg.par.serialMsbFirst)).setLastTx bytes).goto codePower)
      ∨ (s.drawOk.1 = false ∧ s.transmitThenPower bytes = s.drawOk.2.abandonAfterFail) := by
  unfold State.transmitThenPower
  cases h : s.drawOk.1 <;> simp [h]

/-- A load and its successor step, or the iteration abandoned. -/
theorem State.rtcLoadThen_cases (f : Field) (code : BitVec 5) :
    (s.drawOk.1 = true ∧ s.rtcLoadThen f code
        = ((s.drawOk.2.drawByte.2.record (.rtcRead (s.cfg.par.rtcOff f) s.drawOk.2.drawByte.1)).setField f
            (toPlain s.drawOk.2.drawByte.1)).goto code)
      ∨ (s.drawOk.1 = false ∧ s.rtcLoadThen f code = s.drawOk.2.abandonAfterFail) := by
  unfold State.rtcLoadThen
  cases h : s.drawOk.1 <;> simp [h]

/-- The sequencer packs exactly N elements, so PACK succeeds (rules R209, R222). -/
theorem State.packAndTransmit_eq (sel : BufSel) :
    s.packAndTransmit sel = s.transmitThenPower (packBytes (s.buf sel) s.cfg.par.n) := by
  simp [State.packAndTransmit, State.packed_in_range]

/-- Two positions in range: both digits are written (rule R219). -/
theorem State.placeDigits_in_range (tens ones : Nat) (v : Byte) (code : BitVec 5)
    (ht : 1 ≤ tens ∧ tens ≤ s.cfg.par.n) (ho : 1 ≤ ones ∧ ones ≤ s.cfg.par.n) :
    s.placeDigits tens ones v code
      = (s.setBuf .tube ((s.tubeBuf.set (tens - 1) (tensDigit v)).set (ones - 1) (onesDigit v))).goto code := by
  simp only [State.placeDigits, State.setDigit_in_range s .tube tens _ ht]
  rw [State.setDigit_in_range _ .tube ones _ (by simpa using ho)]
  rfl

/-- L_MAP_f writes both digits, or nothing but `seq_pc` (rule R219). It never takes the fail-safe. -/
theorem State.mapField_cases (f : Field) (code : BitVec 5) :
    (∃ tens ones, s.cfg.par.tubeMap.at f .tens = some tens ∧ s.cfg.par.tubeMap.at f .ones = some ones
        ∧ s.mapField f code = (s.setBuf .tube ((s.tubeBuf.set (tens - 1) (tensDigit (s.field f))).set (ones - 1)
            (onesDigit (s.field f)))).goto code)
      ∨ (s.cfg.par.tubeMap.at f .tens = none ∧ s.cfg.par.tubeMap.at f .ones = none ∧ s.mapField f code = s.goto code) := by
  have hp := Config.digits_paired s.cfg f
  unfold State.mapField
  cases ht : s.cfg.par.tubeMap.at f .tens with
  | none =>
    cases ho : s.cfg.par.tubeMap.at f .ones with
    | none => simp
    | some o => simp [ht, ho] at hp
  | some t =>
    cases ho : s.cfg.par.tubeMap.at f .ones with
    | none => simp [ht, ho] at hp
    | some o =>
      refine Or.inl ⟨t, o, rfl, rfl, ?_⟩
      exact State.placeDigits_in_range s t o _ code (Config.position_range s.cfg f _ t ht)
        (Config.position_range s.cfg f _ o ho)

/-! ## Every instruction gives a next state -/

/-- The block has no trap and no fatal abort (rule R240): an instruction always answers a next state. -/
theorem exec_is_next (i : Instr) : ∃ t, exec i s = .next t := by
  cases i <;> exact ⟨_, rfl⟩

/-- What one step can do: an instruction that a word of some port decodes to, an illegal event's error record, the reset input,
or a refusal. -/
theorem step_cases :
    (∃ c i, decode c = .ok i ∧ step s = exec i s.nextTurn.2
        ∧ ((∃ w, s.nextTurn.1 = .event w ∧ c = .event w) ∨ (s.nextTurn.1 = .sequencer ∧ c = .stepCode s.seqPc)
          ∨ (∃ w, s.nextTurn.1 = .microOp w ∧ c = .microOp w)))
      ∨ (∃ w, s.nextTurn.1 = .event w ∧ decode (.event w) = .error (.illegalEvent w)
          ∧ step s = .next (s.nextTurn.2.raise .illegalEvent))
      ∨ (s.nextTurn.1 = .reset ∧ step s = .next s.nextTurn.2.applyReset)
      ∨ (∃ r, step s = .refused r) := by
  obtain ⟨ts, n, hn⟩ := State.nextTurn_changes s
  have hpc : s.nextTurn.2.seqPc = s.seqPc := by rw [hn]
  unfold step
  simp only
  cases ht : s.nextTurn.1 with
  | reset => exact Or.inr (Or.inr (Or.inl ⟨rfl, rfl⟩))
  | event w =>
    cases hd : decode (.event w) with
    | ok i => exact Or.inl ⟨_, i, hd, by simp [runWord, hd], Or.inl ⟨w, rfl, rfl⟩⟩
    | error r =>
      have : r = .illegalEvent w := by
        simp only [decode, decodeEvent] at hd
        split at hd <;> (try split at hd) <;> simp_all
      subst this
      exact Or.inr (Or.inl ⟨w, rfl, hd, by simp [runWord, hd, reject]⟩)
  | sequencer =>
    cases hd : decode (.stepCode s.seqPc) with
    | ok i => exact Or.inl ⟨_, i, hd, by simp [runWord, hd, hpc], Or.inr (Or.inl ⟨rfl, rfl⟩)⟩
    | error r =>
      have : r = .reservedStepCode s.seqPc := by
        simp only [decode, decodeStepCode] at hd
        split at hd <;> simp_all
      subst this
      exact Or.inr (Or.inr (Or.inr ⟨_, by simp only [runWord, hpc, hd]; rfl⟩))
  | microOp w =>
    cases hd : decode (.microOp w) with
    | ok i => exact Or.inl ⟨_, i, hd, by simp [runWord, hd], Or.inr (Or.inr ⟨w, rfl, rfl⟩)⟩
    | error r =>
      have : r = .reservedMicroOp w := by
        simp only [decode, decodeMicroOp] at hd
        split at hd <;> (try split at hd) <;> simp_all
      subst this
      exact Or.inr (Or.inr (Or.inr ⟨_, by simp only [runWord, hd]; rfl⟩))

end Sys2Proof.Machine
end

