-- ==== Sys2Proof/Laws/PerInstr.lean ====
section
/-! SUPPORT. Per-instruction laws: the encoder's word is well formed on its port (30_encoding.md rules R73, R76, R78). -/

namespace Sys2Proof.Laws.EncodedLegal

/-- The encoded word of an instruction is legal on its port. -/
def Statement (i : Instr) : Prop := (encode i).legal = true

theorem pwrPc (level : Bool) : Statement (.pwrPc level) := by
  unfold Statement
  revert level; decide
theorem grpPc (plus : Bool) (minus : Bool) (mode : Bool) : Statement (.grpPc plus minus mode) := by
  unfold Statement
  revert plus minus mode; decide
theorem pwrFall : Statement .pwrFall := rfl
theorem modeFall : Statement .modeFall := rfl
theorem plusFall : Statement .plusFall := rfl
theorem minusFall : Statement .minusFall := rfl
theorem toPlain (b : Byte) : Statement (.toPlain b) := by
  unfold Statement
  revert b; decide
theorem toReg (v : Byte) : Statement (.toReg v) := by
  unfold Statement
  revert v; decide
theorem tbSetDigit (sel : BufSel) (pos : BitVec 3) (val : Nibble) : Statement (.tbSetDigit sel pos val) := by
  unfold Statement
  cases sel <;> revert pos val <;> decide
theorem tbClearAll (sel : BufSel) : Statement (.tbClearAll sel) := by cases sel <;> rfl
theorem pack (sel : BufSel) (count : BitVec 4) : Statement (.pack sel count) := by
  unfold Statement
  cases sel <;> revert count <;> decide
theorem initCtrl : Statement .initCtrl := rfl
theorem initSeedH : Statement .initSeedH := rfl
theorem initSeedM : Statement .initSeedM := rfl
theorem initSeedS : Statement .initSeedS := rfl
theorem lPower : Statement .lPower := rfl
theorem lBlank : Statement .lBlank := rfl
theorem lBlankTx : Statement .lBlankTx := rfl
theorem lProg : Statement .lProg := rfl
theorem lLoadH : Statement .lLoadH := rfl
theorem lLoadM : Statement .lLoadM := rfl
theorem lLoadS : Statement .lLoadS := rfl
theorem lWb1 : Statement .lWb1 := rfl
theorem lWb2 : Statement .lWb2 := rfl
theorem lWb3 : Statement .lWb3 := rfl
theorem lClear : Statement .lClear := rfl
theorem lMapH : Statement .lMapH := rfl
theorem lMapM : Statement .lMapM := rfl
theorem lMapS : Statement .lMapS := rfl
theorem lTx : Statement .lTx := rfl

end Sys2Proof.Laws.EncodedLegal
end

