-- ==== Sys2Proof/Laws/Sequencer.lean ====
section
/-! SUPPORT. What one step of the sequencer and one micro-op can do, said once for all of them; and the two ways PACK's output
grows by one element. -/

namespace Sys2Proof.Machine

/-- Everything that a step of the sequencer can do to a state. -/
inductive SequencerEffect (s : State) : State → Prop
  /-- A failed access in a step INIT_*. -/
  | retry (oks : List Bool) (n : Nat) :
      SequencerEffect s ({ s with accessOks := oks, draws := n }.raise .collabFail)
  /-- A failed access in any other step. -/
  | abandon (oks : List Bool) (n : Nat) :
      SequencerEffect s (({ s with accessOks := oks, draws := n }.raise .collabFail).goto codePower)
  /-- A write to the Time Source. -/
  | write (oks : List Bool) (n : Nat) (off b : Byte) (code : BitVec 5) :
      SequencerEffect s (({ s with accessOks := oks, draws := n }.record (.rtcWrite off b)).goto code)
  /-- A load of a time field. -/
  | load (oks : List Bool) (rs : List Byte) (n : Nat) (f : Field) (b : Byte) (code : BitVec 5) :
      SequencerEffect s ((({ s with accessOks := oks, reads := rs, draws := n }.record
        (.rtcRead (s.cfg.par.rtcOff f) b)).setField f (toPlain b)).goto code)
  /-- A transmit of one whole buffer. -/
  | transmit (oks : List Bool) (n : Nat) (sel : BufSel) :
      SequencerEffect s ((({ s with accessOks := oks, draws := n }.record
        (.transmit (packBytes (s.buf sel) s.cfg.par.n) s.cfg.par.serialMsbFirst)).setLastTx
          (packBytes (s.buf sel) s.cfg.par.n)).goto codePower)
  /-- L_POWER. -/
  | samplePower (code : BitVec 5) : SequencerEffect s (State.goto code { s with pSnap := s.powerState })
  /-- L_PROG. -/
  | sampleProg (code : BitVec 5) : SequencerEffect s (State.goto code { s with qSnap := s.progState })
  /-- L_BLANK and L_CLEAR. -/
  | clear (sel : BufSel) (code : BitVec 5) : SequencerEffect s ((s.clearAll sel).goto code)
  /-- L_MAP_* of a mapped field. -/
  | digits (b : List Nibble) (code : BitVec 5) : SequencerEffect s ((s.setBuf .tube b).goto code)
  /-- L_MAP_* of a field that is not mapped. -/
  | skip (code : BitVec 5) : SequencerEffect s (s.goto code)

variable (s : State)

/-- A write step writes, retries or abandons. -/
theorem State.rtcWriteThen_effect (off b : Byte) (code : BitVec 5) (onFail : State → State)
    (h : onFail = State.retryAfterFail ∨ onFail = State.abandonAfterFail) :
    SequencerEffect s (s.rtcWriteThen off b code onFail) := by
  obtain ⟨oks, n, hd⟩ := State.drawOk_changes s
  rcases State.rtcWriteThen_cases s off b code onFail with ⟨_, e⟩ | ⟨_, e⟩ <;> rw [e, hd]
  · exact .write ..
  · rcases h with rfl | rfl
    · exact .retry ..
    · exact .abandon ..

/-- A load step loads or abandons. -/
theorem State.rtcLoadThen_effect (f : Field) (code : BitVec 5) : SequencerEffect s (s.rtcLoadThen f code) := by
  obtain ⟨oks, n, hd⟩ := State.drawOk_changes s
  obtain ⟨rs, n2, hd2⟩ := State.drawByte_changes s.drawOk.2
  rcases State.rtcLoadThen_cases s f code with ⟨_, e⟩ | ⟨_, e⟩ <;> rw [e]
  · rw [hd2, hd]; exact .load ..
  · rw [hd]; exact .abandon ..

/-- A transmit step transmits or abandons. -/
theorem State.packAndTransmit_effect (sel : BufSel) : SequencerEffect s (s.packAndTransmit sel) := by
  rw [State.packAndTransmit_eq]
  obtain ⟨oks, n, hd⟩ := State.drawOk_changes s
  rcases State.transmitThenPower_cases s _ with ⟨_, e⟩ | ⟨_, e⟩ <;> rw [e, hd]
  · exact .transmit ..
  · exact .abandon ..

/-- A map step places digits or skips. -/
theorem State.mapField_effect (f : Field) (code : BitVec 5) : SequencerEffect s (s.mapField f code) := by
  rcases State.mapField_cases s f code with ⟨_, _, _, _, e⟩ | ⟨_, _, e⟩ <;> rw [e]
  · exact .digits ..
  · exact .skip ..

/-- Every step of the sequencer has one of these effects. -/
theorem exec_step_effect (i : Instr) (t : State) (hi : i.isStep = true) (h : exec i s = .next t) :
    SequencerEffect s t := by
  cases i with
  | initCtrl | initSeedH | initSeedM | initSeedS => cases h; exact State.rtcWriteThen_effect _ _ _ _ _ (.inl rfl)
  | lWb1 | lWb2 | lWb3 => cases h; exact State.rtcWriteThen_effect _ _ _ _ _ (.inr rfl)
  | lPower => cases h; exact .samplePower _
  | lProg => cases h; exact .sampleProg _
  | lBlank | lClear => cases h; exact .clear ..
  | lBlankTx | lTx => cases h; exact State.packAndTransmit_effect ..
  | lLoadH | lLoadM | lLoadS => cases h; exact State.rtcLoadThen_effect ..
  | lMapH | lMapM | lMapS => cases h; exact State.mapField_effect ..
  | _ => simp [Instr.isStep, Instr.isEvent, Instr.isMicroOp] at hi

/-- A micro-op taken alone writes only the buffers, the error record and the port's answer. -/
theorem exec_microOp_frame (i : Instr) (t : State) (hi : i.isMicroOp = true) (h : exec i s = .next t) :
    t = { s with tubeBuf := t.tubeBuf, blankBuf := t.blankBuf, errFlags := t.errFlags, errCause := t.errCause,
                 portResult := t.portResult } := by
  cases i with
  | toPlain | toReg => cases h; rfl
  | tbSetDigit sel pos val =>
    cases h
    by_cases hp : pos.toNat < 1 ∨ pos.toNat > s.cfg.par.n
    · rw [State.setDigit_out_of_range s sel _ val hp]; rfl
    · rw [State.setDigit_in_range s sel _ val (by omega)]; cases sel <;> rfl
  | tbClearAll sel => cases h; cases sel <;> rfl
  | pack sel count =>
    cases h
    unfold State.packed
    by_cases hp : count.toNat > s.cfg.par.n
    · simp only [if_pos hp]; rfl
    · simp only [if_neg hp]; rfl
  | _ => simp [Instr.isMicroOp] at hi

/-- Every instruction leaves the error record as it is, or records one cause. -/
theorem exec_errorRecord (i : Instr) (t : State) (h : exec i s = .next t) :
    (t.errFlags = s.errFlags ∧ t.errCause = s.errCause)
      ∨ ∃ c, t.errFlags = errFlagsAfter c s.errFlags ∧ t.errCause = errCauseAfter c s.errCause := by
  by_cases he : i.isEvent = true
  · left; rw [exec_event_frame s i t he h]; exact ⟨rfl, rfl⟩
  by_cases hm : i.isMicroOp = true
  · cases i with
    | toPlain | toReg => cases h; exact .inl ⟨rfl, rfl⟩
    | tbSetDigit sel pos val =>
      cases h
      by_cases hp : pos.toNat < 1 ∨ pos.toNat > s.cfg.par.n
      · right; rw [State.setDigit_out_of_range s sel _ val hp]; exact ⟨_, rfl, rfl⟩
      · left; rw [State.setDigit_in_range s sel _ val (by omega)]; cases sel <;> exact ⟨rfl, rfl⟩
    | tbClearAll sel => cases h; left; cases sel <;> exact ⟨rfl, rfl⟩
    | pack sel count =>
      cases h
      unfold State.packed
      by_cases hp : count.toNat > s.cfg.par.n
      · right; simp only [if_pos hp]; exact ⟨_, rfl, rfl⟩
      · left; simp only [if_neg hp]; exact ⟨rfl, rfl⟩
    | _ => simp [Instr.isMicroOp] at hm
  · have hs : i.isStep = true := by simp [Instr.isStep, he, hm]
    cases exec_step_effect s i t hs h
    case retry => right; exact ⟨_, rfl, rfl⟩
    case abandon => right; exact ⟨_, rfl, rfl⟩
    case load oks rs n f b code => left; cases f <;> exact ⟨rfl, rfl⟩
    case clear sel code => left; cases sel <;> exact ⟨rfl, rfl⟩
    all_goals exact .inl ⟨rfl, rfl⟩

/-! ## PACK, one element at a time -/

/-- One turn of PACK's loop below the last byte leaves the last byte alone. -/
theorem packElement_append (buf : List Nibble) (out : List Byte) (x : Byte) (i : Nat) (h : i < 2 * out.length) :
    packElement buf (out ++ [x]) i = packElement buf out i ++ [x] := by
  unfold packElement
  simp only
  split
  · rw [List.set_append_left _ _ (by omega)]
  · rw [List.set_append_left _ _ (by omega)]
    congr 2
    simp only [List.getD_eq_getElem?_getD]
    rw [List.getElem?_append_left (by omega)]

/-- PACK's loop below the last byte leaves the last byte alone. -/
theorem packFold_append (buf : List Nibble) (l : List Nat) (out : List Byte) (x : Byte)
    (h : ∀ i ∈ l, i < 2 * out.length) :
    l.foldl (packElement buf) (out ++ [x]) = l.foldl (packElement buf) out ++ [x] := by
  induction l generalizing out with
  | nil => rfl
  | cons i l ih =>
    simp only [List.foldl_cons, packElement_append buf out x i (h i (by simp))]
    exact ih _ fun j hj => by rw [packElement_length]; exact h j (by simp [hj])

/-- An element at an even index begins a byte. -/
theorem packBytes_succ_even (buf : List Nibble) (j : Nat) (h : 2 * j < buf.length) :
    packBytes buf (2 * j + 1) = packBytes buf (2 * j) ++ [(buf[2 * j].setWidth 8 : Byte)] := by
  have h1 : (2 * j + 1 + 1) / 2 = j + 1 := by omega
  have h2 : (2 * j + 1) / 2 = j := by omega
  have hlen : ((List.range (2 * j)).foldl (packElement buf) (List.replicate j 0#8)).length = j := by
    rw [packFold_length]; simp
  unfold packBytes
  rw [h1, h2, List.range_succ, List.foldl_append, List.replicate_succ', packFold_append _ _ _ _ (by simp)]
  simp only [List.foldl_cons, List.foldl_nil]
  generalize (List.range (2 * j)).foldl (packElement buf) (List.replicate j 0#8) = out at *
  unfold packElement
  have hj : 2 * j / 2 = out.length := by omega
  simp [hj, h]

/-- An element at an odd index is ORed into the high nibble of the byte that the element before it began. -/
theorem packBytes_succ_odd (buf : List Nibble) (j : Nat) (h : 2 * j + 1 < buf.length) :
    packBytes buf (2 * j + 2) = (packBytes buf (2 * j + 1)).set j
      ((packBytes buf (2 * j + 1)).getD j 0#8 ||| (buf[2 * j + 1].setWidth 8 : Byte) <<< 4) := by
  have h1 : (2 * j + 2 + 1) / 2 = (2 * j + 1 + 1) / 2 := by omega
  unfold packBytes
  rw [h1, List.range_succ, List.foldl_append]
  simp only [List.foldl_cons, List.foldl_nil]
  generalize (List.range (2 * j + 1)).foldl (packElement buf) (List.replicate ((2 * j + 1 + 1) / 2) 0#8) = out
  unfold packElement
  have hm : ¬ ((2 * j + 1) % 2 = 0) := by omega
  have hj : (2 * j + 1 - 1) / 2 = j := by omega
  have hg : buf.getD (2 * j + 1) OFF = buf[2 * j + 1] := by simp [h]
  simp only [if_neg hm, hj, hg]

end Sys2Proof.Machine
end

