-- ==== Sys2Proof/Tests/Slice0.lean ====
section
/-! SUPPORT. The model's own tests, with expected results from 95_test_vectors.md and the worked examples of the rules; the smoke
tests of the well-formedness checks; and a witness for the hypotheses of every statement that has some. -/

namespace Sys2Proof.Tests

open Sys2Proof Sys2Proof.Machine Sys2Proof.Claims

/-! ## Small states -/

/-- REF6 (rule R9). Its symbolic offsets and control value are numbers of the tests' own choosing. -/
def ref6 : Config := { par := Parameters.ref6 0xA0#8 0xA1#8 0xA2#8 0xA3#8 0x5C#8 }

/-- REF6 with collaborators that can fail. -/
def failing : Config := { par := { ref6.par with collabCanFail := true } }

/-- The partial map of 95_test_vectors.md V9: N = 4, hours on 1 and 2, minutes on 3 and 4, seconds unmapped. -/
def partial4 : Config := { par := { ref6.par with n := 4, tubeMap := ⟨some 1, some 2, some 3, some 4, none, none⟩ } }

/-- REF6 with the seconds unmapped: positions 5 and 6 hold no digit. -/
def unmapped : Config := { par := { ref6.par with tubeMap := ⟨some 1, some 2, some 3, some 4, none, none⟩ } }

/-- A state of REF6. -/
def st (p : PowerState) (q : ProgState) (h m s : Byte) : State :=
  { State.resetOf ref6 with powerState := p, progState := q, hours := h, minutes := m, seconds := s }

/-- REF6 right after reset. -/
def r6 : State := State.resetOf ref6

/-- The state an outcome answers, if it answers one. -/
def after (o : Host.Outcome State Fault Refusal) : Option State :=
  match o with
  | .next t => some t
  | .fault _ => none
  | .refused _ => none

/-- The three fields after an outcome. -/
def time (o : Host.Outcome State Fault Refusal) : Option (Byte × Byte × Byte) :=
  (after o).map fun t => (t.hours, t.minutes, t.seconds)

/-- The power and programming states after an outcome. -/
def mode (o : Host.Outcome State Fault Refusal) : Option (PowerState × ProgState) :=
  (after o).map fun t => (t.powerState, t.progState)

/-- The step register and the accesses after an outcome. -/
def trace (o : Host.Outcome State Fault Refusal) : Option (BitVec 5 × List Access) :=
  (after o).map fun t => (t.seqPc, t.history)

/-- The logical buffer after an outcome. -/
def tubes (o : Host.Outcome State Fault Refusal) : Option (List Nibble) := (after o).map State.tubeBuf

/-- The internal port's answer and the error record after an outcome. -/
def answer (o : Host.Outcome State Fault Refusal) : Option (PortResult × BitVec 3 × BitVec 4) :=
  (after o).map fun t => (t.portResult, t.errFlags, t.errCause)

/-! ## Decoding, words written out from rules R72, R75 and R78 -/

theorem test_decode_events :
    decode (.event 0b00010000#8) = .ok (.pwrPc false) ∧ decode (.event 0b00010001#8) = .ok (.pwrPc true)
      ∧ decode (.event 0b00100110#8) = .ok (.grpPc false true true)
      ∧ decode (.event 0b00100101#8) = .ok (.grpPc true false true)
      ∧ decode (.event 0b00100011#8) = .ok (.grpPc true true false)
      ∧ decode (.event 0b01000000#8) = .ok .pwrFall ∧ decode (.event 0b01010000#8) = .ok .modeFall
      ∧ decode (.event 0b01100000#8) = .ok .plusFall ∧ decode (.event 0b01110000#8) = .ok .minusFall := by decide

theorem test_decode_microOps :
    decode (.microOp 0b0001000001011001#16) = .ok (.toPlain 0x59#8)
      ∧ decode (.microOp 0b0001000100111011#16) = .ok (.toReg 59#8)
      ∧ decode (.microOp 0b0010000000110111#16) = .ok (.tbSetDigit .tube 3#3 7#4)
      ∧ decode (.microOp 0b0010000010010000#16) = .ok (.tbSetDigit .blank 1#3 0#4)
      ∧ decode (.microOp 0b0010000100000000#16) = .ok (.tbClearAll .tube)
      ∧ decode (.microOp 0b0010000110000000#16) = .ok (.tbClearAll .blank)
      ∧ decode (.microOp 0b0011000000000110#16) = .ok (.pack .tube 6#4)
      ∧ decode (.microOp 0b0011000010000110#16) = .ok (.pack .blank 6#4) := by decide

theorem test_decode_init_and_head :
    decode (.stepCode 0b00000#5) = .ok .initCtrl ∧ decode (.stepCode 0b00001#5) = .ok .initSeedH
      ∧ decode (.stepCode 0b00010#5) = .ok .initSeedM ∧ decode (.stepCode 0b00011#5) = .ok .initSeedS
      ∧ decode (.stepCode 0b00100#5) = .ok .lPower ∧ decode (.stepCode 0b00101#5) = .ok .lBlank
      ∧ decode (.stepCode 0b00110#5) = .ok .lBlankTx ∧ decode (.stepCode 0b00111#5) = .ok .lProg
      ∧ decode (.stepCode 0b01000#5) = .ok .lLoadH ∧ decode (.stepCode 0b01001#5) = .ok .lLoadM
      ∧ decode (.stepCode 0b01010#5) = .ok .lLoadS := by decide

theorem test_decode_tail :
    decode (.stepCode 0b01011#5) = .ok .lWb1 ∧ decode (.stepCode 0b01100#5) = .ok .lWb2
      ∧ decode (.stepCode 0b01101#5) = .ok .lWb3 ∧ decode (.stepCode 0b01110#5) = .ok .lClear
      ∧ decode (.stepCode 0b01111#5) = .ok .lMapH ∧ decode (.stepCode 0b10000#5) = .ok .lMapM
      ∧ decode (.stepCode 0b10001#5) = .ok .lMapS ∧ decode (.stepCode 0b10010#5) = .ok .lTx := by decide

/-- The table's words as the host numbers them. 0x10 and 0x11 on eight bits are step codes (log entry 11). -/
theorem test_decodeTableWord :
    decodeTableWord 8 0x26 = some (.grpPc false true true) ∧ decodeTableWord 16 0x3086 = some (.pack .blank 6#4)
      ∧ decodeTableWord 5 0x10 = some .lMapM ∧ decodeTableWord 5 0x11 = some .lMapS
      ∧ decodeTableWord 8 0x0B = some .lWb1 ∧ decodeTableWord 8 0x12 = some .lTx
      ∧ decodeTableWord 8 0x10 = some .lMapM ∧ decodeTableWord 8 0x40 = some .pwrFall ∧ decodeTableWord 8 0x9A = none
      ∧ decodeTableWord 16 0x3016 = none ∧ decodeTableWord 5 0x13 = none := by decide

/-! ## Well-formedness: each check refuses an ill-formed term -/

/-- 95_test_vectors.md V8. -/
theorem test_illegal_event_words :
    ∀ w ∈ [0x00#8, 0x30#8, 0x3F#8, 0x80#8, 0x9A#8, 0xFF#8, 0x12#8, 0x14#8, 0x18#8, 0x28#8, 0x2F#8, 0x41#8, 0x51#8,
      0x61#8, 0x7F#8], eventWordLegal w = false ∧ decode (.event w) = .error (.illegalEvent w) := by decide

/-- Rule R76: unlisted units and unlisted operations. -/
theorem test_reserved_microOp_units :
    (microOpWordLegal 0x0000#16 = false ∧ decode (.microOp 0x0000#16) = .error (.reservedMicroOp 0x0000#16))
      ∧ (microOpWordLegal 0x1200#16 = false ∧ decode (.microOp 0x1200#16) = .error (.reservedMicroOp 0x1200#16))
      ∧ (microOpWordLegal 0x2200#16 = false ∧ decode (.microOp 0x2200#16) = .error (.reservedMicroOp 0x2200#16))
      ∧ (microOpWordLegal 0x3100#16 = false ∧ decode (.microOp 0x3100#16) = .error (.reservedMicroOp 0x3100#16))
      ∧ (microOpWordLegal 0x4000#16 = false ∧ decode (.microOp 0x4000#16) = .error (.reservedMicroOp 0x4000#16))
      ∧ (microOpWordLegal 0xF000#16 = false ∧ decode (.microOp 0xF000#16) = .error (.reservedMicroOp 0xF000#16)) :=
  ⟨⟨rfl, rfl⟩, ⟨rfl, rfl⟩, ⟨rfl, rfl⟩, ⟨rfl, rfl⟩, ⟨rfl, rfl⟩, ⟨rfl, rfl⟩⟩

/-- Rule R76: the bits that must be zero. -/
theorem test_reserved_microOp_zero_bits :
    (microOpWordLegal 0x2101#16 = false ∧ decode (.microOp 0x2101#16) = .error (.reservedMicroOp 0x2101#16))
      ∧ (microOpWordLegal 0x2140#16 = false ∧ decode (.microOp 0x2140#16) = .error (.reservedMicroOp 0x2140#16))
      ∧ (microOpWordLegal 0x3010#16 = false ∧ decode (.microOp 0x3010#16) = .error (.reservedMicroOp 0x3010#16))
      ∧ (microOpWordLegal 0x3040#16 = false ∧ decode (.microOp 0x3040#16) = .error (.reservedMicroOp 0x3040#16)) :=
  ⟨⟨rfl, rfl⟩, ⟨rfl, rfl⟩, ⟨rfl, rfl⟩, ⟨rfl, rfl⟩⟩

/-- Rule R78. -/
theorem test_reserved_step_codes :
    ∀ c ∈ [0x13#5, 0x1F#5], stepCodeLegal c = false ∧ decode (.stepCode c) = .error (.reservedStepCode c) := by decide

theorem test_ref6_wf : ref6.par.wf = true ∧ failing.par.wf = true ∧ partial4.par.wf = true := by decide

/-- Rule R8, tube count. -/
theorem test_wf_refuses_count :
    Config.ofParameters { ref6.par with n := 5 } = none ∧ Config.ofParameters { ref6.par with n := 0 } = none := by decide

/-- Rule R8, positions in 1..N. -/
theorem test_wf_refuses_position :
    Config.ofParameters { ref6.par with tubeMap := ⟨some 0, some 2, none, none, none, none⟩ } = none
      ∧ Config.ofParameters { ref6.par with n := 4 } = none := by decide

/-- Rule R8, no shared tube. -/
theorem test_wf_refuses_shared_tube :
    Config.ofParameters { ref6.par with tubeMap := ⟨some 1, some 2, some 2, some 3, none, none⟩ } = none := by decide

/-- Rule R8, both digits of a field or neither. -/
theorem test_wf_refuses_half_field :
    Config.ofParameters { ref6.par with tubeMap := ⟨some 1, none, none, none, none, none⟩ } = none
      ∧ Config.ofParameters { ref6.par with tubeMap := ⟨none, none, none, some 1, none, none⟩ } = none
      ∧ Config.ofParameters { ref6.par with tubeMap := ⟨none, none, none, none, some 1, none⟩ } = none := by decide

/-- Rule R8, distinct offsets. -/
theorem test_wf_refuses_equal_offsets :
    Config.ofParameters { ref6.par with rtcOffS := 0xA0#8 } = none
      ∧ Config.ofParameters { ref6.par with rtcOffCtrl := 0xA1#8 } = none := by decide

theorem test_wf_accepts : (Config.ofParameters partial4.par).isSome = true := by decide

/-! ## Events, 95_test_vectors.md V5 to V7 -/

theorem test_plusFall_full_carry : time (exec .plusFall (st .on .editS 23#8 59#8 59#8)) = some (0#8, 0#8, 0#8) := by decide

/-- V5's off-domain row: each test is made once and the hours wrap to 0. -/
theorem test_plusFall_off_domain :
    time (exec .plusFall (st .on .editS 165#8 165#8 165#8)) = some (0#8, 106#8, 106#8) := by decide

theorem test_minusFall_full_borrow : time (exec .minusFall (st .off .editS 0#8 0#8 0#8)) = some (23#8, 59#8, 59#8) := by decide

/-- V5's row that tells decision D11 apart. -/
theorem test_minusFall_borrows_only :
    time (exec .minusFall (st .on .editS 165#8 165#8 0#8)) = some (165#8, 164#8, 59#8) := by decide

theorem test_modeFall_guarded_entry : mode (exec .modeFall (st .off .notProg 0#8 0#8 0#8)) = some (.off, .notProg) := by decide

theorem test_modeFall_while_off : mode (exec .modeFall (st .off .editS 0#8 0#8 0#8)) = some (.off, .notProg) := by decide

theorem test_pwrFall : mode (exec .pwrFall (st .on .editM 1#8 2#8 3#8)) = some (.off, .editM) := by decide

theorem test_pwrPc_rising_edge : mode (exec (.pwrPc true) (st .off .editM 1#8 2#8 3#8)) = some (.off, .editM) := by decide

theorem test_pwrPc_falling_edge : mode (exec (.pwrPc false) (st .on .editM 1#8 2#8 3#8)) = some (.off, .editM) := by decide

/-- V7, word 0x22: plus in EDIT_S, then the cycle. -/
theorem test_grpPc_plus_then_mode :
    time (exec (.grpPc false true false) (st .on .editS 0#8 0#8 10#8)) = some (0#8, 0#8, 11#8)
      ∧ mode (exec (.grpPc false true false) (st .on .editS 0#8 0#8 10#8)) = some (.on, .notProg) := by decide

/-- V7, word 0x21. -/
theorem test_grpPc_minus_then_mode :
    time (exec (.grpPc true false false) (st .on .editS 0#8 0#8 10#8)) = some (0#8, 0#8, 9#8) := by decide

/-- Rules R167 and R169 in EDIT_M at the top of the stored range: 165 + 1 + the seconds' carry is 167, so minutes become 107
(log entry 16). -/
theorem test_plusFall_minutes_107 :
    time (exec .plusFall (st .on .editM 0#8 165#8 165#8)) = some (1#8, 107#8, 105#8) := by decide

/-- V8: STATUS after 0x30 is 0x11 and ERR_CAUSE is 3. -/
theorem test_illegal_event_step :
    (after (step { r6 with turns := [.event 0x30#8] })).map (fun t => (t.statusPort, t.errCausePort))
      = some (0x11#8, 3#4) := by decide

/-! ## Micro-ops, V2 to V4 -/

theorem test_toPlain : answer (exec (.toPlain 0xFF#8) r6) = some (.byte 165#8, 0#3, 0#4) := by decide

theorem test_toPlain_flag_bit : answer (exec (.toPlain 0x7A#8) r6) = some (.byte 80#8, 0#3, 0#4) := by decide

theorem test_toReg : answer (exec (.toReg 59#8) r6) = some (.byte 0x59#8, 0#3, 0#4) := by decide

theorem test_toReg_truncates : answer (exec (.toReg 255#8) r6) = some (.byte 0x95#8, 0#3, 0#4) := by decide

theorem test_setDigit :
    tubes (exec (.tbSetDigit .tube 6#3 9#4) r6) = some [0xF#4, 0xF#4, 0xF#4, 0xF#4, 0xF#4, 9#4] := by decide

theorem test_setDigit_out_of_range :
    answer (exec (.tbSetDigit .tube 7#3 5#4) r6) = some (.packingError .posRange, 1#3, 2#4)
      ∧ tubes (exec (.tbSetDigit .tube 0#3 5#4) r6) = some r6.tubeBuf := by decide

theorem test_clearAll :
    tubes (exec (.tbClearAll .tube) { r6 with tubeBuf := [1#4, 2#4, 3#4, 4#4, 5#4, 6#4] }) = some r6.tubeBuf := by decide

theorem test_pack_odd_count :
    answer (exec (.pack .tube 5#4) { r6 with tubeBuf := [1#4, 2#4, 3#4, 4#4, 5#4, 6#4] })
      = some (.bytes [0x21#8, 0x43#8, 0x05#8], 0#3, 0#4) := by decide

theorem test_pack_count_over :
    answer (exec (.pack .tube 7#4) r6) = some (.packingError .packCount, 1#3, 1#4) := by decide

/-! ## The sequencer's steps, V9 and the worked examples of the rules -/

theorem test_initCtrl : trace (exec .initCtrl r6) = some (0x01#5, [.rtcWrite 0xA3#8 0x5C#8]) := by decide

theorem test_initSeeds :
    trace (exec .initSeedH r6) = some (0x02#5, [.rtcWrite 0xA0#8 0x00#8])
      ∧ trace (exec .initSeedM r6) = some (0x03#5, [.rtcWrite 0xA1#8 0x00#8])
      ∧ trace (exec .initSeedS r6) = some (0x04#5, [.rtcWrite 0xA2#8 0x00#8]) := by decide

theorem test_lPower :
    trace (exec .lPower (st .off .notProg 0#8 0#8 0#8)) = some (0x05#5, [])
      ∧ trace (exec .lPower (st .on .notProg 0#8 0#8 0#8)) = some (0x07#5, []) := by decide

theorem test_lProg :
    trace (exec .lProg (st .on .editM 0#8 0#8 0#8)) = some (0x0B#5, [])
      ∧ trace (exec .lProg (st .on .notProg 0#8 0#8 0#8)) = some (0x08#5, []) := by decide

theorem test_lBlank :
    (after (exec .lBlank { r6 with blankBuf := [0#4, 0xF#4, 0xF#4, 0xF#4, 0xF#4, 0xF#4] })).map
      (fun t => (t.blankBuf, t.seqPc)) = some (r6.blankBuf, 0x06#5) := by decide

theorem test_lBlankTx :
    trace (exec .lBlankTx r6) = some (0x04#5, [.transmit [0xFF#8, 0xFF#8, 0xFF#8] true]) := by decide

theorem test_lLoads :
    time (exec .lLoadH { r6 with reads := [0x23#8] }) = some (23#8, 0#8, 0#8)
      ∧ time (exec .lLoadM { r6 with reads := [0x59#8] }) = some (0#8, 59#8, 0#8)
      ∧ time (exec .lLoadS { r6 with reads := [0x07#8] }) = some (0#8, 0#8, 7#8) := by decide

theorem test_lLoads_trace :
    trace (exec .lLoadH { r6 with reads := [0x23#8] }) = some (0x09#5, [.rtcRead 0xA0#8 0x23#8])
      ∧ trace (exec .lLoadM { r6 with reads := [0x59#8] }) = some (0x0A#5, [.rtcRead 0xA1#8 0x59#8])
      ∧ trace (exec .lLoadS { r6 with reads := [0x07#8] }) = some (0x0E#5, [.rtcRead 0xA2#8 0x07#8]) := by decide

/-- V9, EDIT_M at 10:20:30: minutes, hours, seconds. -/
theorem test_lWbs :
    trace (exec .lWb1 { st .on .editM 10#8 20#8 30#8 with qSnap := .editM }) = some (0x0C#5, [.rtcWrite 0xA1#8 0x20#8])
      ∧ trace (exec .lWb2 { st .on .editM 10#8 20#8 30#8 with qSnap := .editM })
        = some (0x0D#5, [.rtcWrite 0xA0#8 0x10#8])
      ∧ trace (exec .lWb3 { st .on .editM 10#8 20#8 30#8 with qSnap := .editM })
        = some (0x0E#5, [.rtcWrite 0xA2#8 0x30#8]) := by decide

/-- P2, EDIT_S: seconds, hours, minutes. -/
theorem test_lWbs_seconds_first :
    trace (exec .lWb1 { st .on .editS 1#8 2#8 3#8 with qSnap := .editS }) = some (0x0C#5, [.rtcWrite 0xA2#8 0x03#8])
      ∧ trace (exec .lWb2 { st .on .editS 1#8 2#8 3#8 with qSnap := .editS })
        = some (0x0D#5, [.rtcWrite 0xA0#8 0x01#8])
      ∧ trace (exec .lWb3 { st .on .editS 1#8 2#8 3#8 with qSnap := .editS })
        = some (0x0E#5, [.rtcWrite 0xA1#8 0x02#8]) := by decide

theorem test_lClear :
    tubes (exec .lClear { r6 with tubeBuf := [1#4, 2#4, 3#4, 4#4, 5#4, 6#4] }) = some r6.tubeBuf
      ∧ trace (exec .lClear r6) = some (0x0F#5, []) := by decide

theorem test_lMaps :
    tubes (exec .lMapH (st .on .notProg 9#8 0#8 0#8)) = some [0#4, 9#4, 0xF#4, 0xF#4, 0xF#4, 0xF#4]
      ∧ tubes (exec .lMapM (st .on .notProg 0#8 59#8 0#8)) = some [0xF#4, 0xF#4, 5#4, 9#4, 0xF#4, 0xF#4]
      ∧ tubes (exec .lMapS (st .on .notProg 0#8 0#8 7#8)) = some [0xF#4, 0xF#4, 0xF#4, 0xF#4, 0#4, 7#4] := by decide

/-- V9's partial map: L_MAP_S reads nothing. -/
theorem test_lMapS_unmapped :
    (after (exec .lMapS { State.resetOf partial4 with seconds := 33#8 })).map (fun t => (t.tubeBuf, t.seqPc))
      = some ([0xF#4, 0xF#4, 0xF#4, 0xF#4], 0x12#5) := by decide

theorem test_lTx :
    trace (exec .lTx { r6 with tubeBuf := [2#4, 3#4, 5#4, 9#4, 0#4, 7#4] })
      = some (0x04#5, [.transmit [0x32#8, 0x95#8, 0x70#8] true]) := by decide

/-- Rule R202: an INIT_* step is retried, any other step abandons the iteration. -/
theorem test_collaborator_fails :
    (after (exec .initSeedM { State.resetOf failing with seqPc := 0x02#5, accessOks := [false] })).map
        (fun t => (t.seqPc, t.errFlags, t.errCause, t.history)) = some (0x02#5, 4#3, 4#4, [])
      ∧ (after (exec .lLoadH { State.resetOf failing with seqPc := 0x08#5, hours := 5#8, accessOks := [false] })).map
        (fun t => (t.seqPc, t.errFlags, t.hours, t.history)) = some (0x04#5, 4#3, 5#8, []) := by decide

/-- Rule R223. -/
theorem test_reserved_step_is_refused :
    step { r6 with seqPc := 0x13#5, turns := [.sequencer] } = .refused (.reservedStepCode 0x13#5) := rfl

/-- Rule R270 as an input. -/
theorem test_reset_turn :
    (after (step { st .off .editS 1#8 2#8 3#8 with
        errFlags := 2#3, errCause := 3#4, history := [.rtcWrite 0#8 0#8], turns := [.reset] })).map (fun t => (t.powerState, t.hours, t.errCause, t.history))
      = some (.on, 0#8, 0#4, []) := by decide

/-! ## Witnesses: states and operands that meet the hypotheses of the statements -/

theorem witness_EncodeOfDecodeIsTheWord : decode (.microOp 0x2037#16) = .ok (.tbSetDigit .tube 3#3 7#4) := by decide

theorem witness_LegalWordsDecodeAndNoOthers :
    decode (.event 0x40#8) = .ok .pwrFall ∧ decode (.microOp 0x3006#16) = .ok (.pack .tube 6#4)
      ∧ decode (.stepCode 0x12#5) = .ok .lTx
      ∧ (PortWord.event 0x12#8).legal = false ∧ (PortWord.microOp 0x3010#16).legal = false
      ∧ (PortWord.stepCode 0x13#5).legal = false := by decide

theorem witness_StepRunsTheDecodedInstruction :
    (State.nextTurn { r6 with turns := [.event 0x40#8] } = (.event 0x40#8, r6) ∧ decode (.event 0x40#8) = .ok .pwrFall)
      ∧ (State.nextTurn { r6 with turns := [.sequencer] } = (.sequencer, r6)
        ∧ decode (.stepCode r6.seqPc) = .ok .initCtrl)
      ∧ (State.nextTurn { r6 with turns := [.microOp 0x1059#16] } = (.microOp 0x1059#16, r6)
        ∧ decode (.microOp 0x1059#16) = .ok (.toPlain 0x59#8)) :=
  ⟨⟨rfl, rfl⟩, ⟨rfl, rfl⟩, ⟨rfl, rfl⟩⟩

theorem witness_EventsStandBetweenSequencerSteps :
    State.turns { r6 with turns := [.event 0x40#8] } = .event 0x40#8 :: [] ∧ r6.turns = [] := ⟨rfl, rfl⟩

theorem witness_IllegalEventIsRecordedAndIgnored :
    State.turns { r6 with turns := [.event 0x41#8, .sequencer] } = .event 0x41#8 :: [.sequencer]
      ∧ eventWordLegal 0x41#8 = false ∧ eventWordLegal 0x00#8 = false ∧ eventWordLegal 0x28#8 = false :=
  ⟨rfl, by decide, by decide, by decide⟩

theorem witness_ReservedWordsAreRefused :
    (State.turns { r6 with turns := [.microOp 0x2140#16] } = .microOp 0x2140#16 :: []
        ∧ microOpWordLegal 0x2140#16 = false)
      ∧ (State.turns { r6 with seqPc := 0x13#5, turns := [.sequencer] } = .sequencer :: []
        ∧ 0x13 ≤ (State.seqPc { r6 with seqPc := 0x13#5, turns := [.sequencer] }).toNat) :=
  ⟨⟨rfl, by decide⟩, ⟨rfl, by decide⟩⟩

theorem witness_PowerFallToggles :
    (st .off .notProg 0#8 0#8 0#8).powerState = .off ∧ (st .on .notProg 0#8 0#8 0#8).powerState = .on := ⟨rfl, rfl⟩

theorem witness_ModeFallCyclesTheProgrammingState :
    ((st .off .notProg 0#8 0#8 0#8).progState = .notProg ∧ (st .off .notProg 0#8 0#8 0#8).powerState = .off)
      ∧ ¬ ((st .off .editH 0#8 0#8 0#8).progState = .notProg ∧ (st .off .editH 0#8 0#8 0#8).powerState = .off)
      ∧ ¬ ((st .on .notProg 0#8 0#8 0#8).progState = .notProg ∧ (st .on .notProg 0#8 0#8 0#8).powerState = .off) := by
  decide

theorem witness_FourModeEventsReturn :
    (st .on .notProg 1#8 2#8 3#8).powerState = .on
      ∧ exec .modeFall (st .on .notProg 1#8 2#8 3#8) = .next (st .on .editH 1#8 2#8 3#8)
      ∧ exec .modeFall (st .on .editH 1#8 2#8 3#8) = .next (st .on .editM 1#8 2#8 3#8)
      ∧ exec .modeFall (st .on .editM 1#8 2#8 3#8) = .next (st .on .editS 1#8 2#8 3#8) := ⟨rfl, rfl, rfl, rfl⟩

theorem witness_PlusFallIncrementsWithCarry :
    (st .on .notProg 0#8 0#8 0#8).progState = .notProg
      ∧ ∃ s : State, s.progState ≠ .notProg ∧ ∃ s0 m0 h0 m1 h1 : Nat,
        s0 = s.seconds.toNat + (if s.progState = .editS then 1 else 0)
          ∧ m0 = s.minutes.toNat + (if s.progState = .editM then 1 else 0)
          ∧ h0 = s.hours.toNat + (if s.progState = .editH then 1 else 0)
          ∧ m1 = (if s0 ≥ 60 then m0 + 1 else m0) ∧ h1 = (if m1 ≥ 60 then h0 + 1 else h0) :=
  ⟨rfl, st .on .editS 23#8 59#8 59#8, by decide, 60, 59, 23, 60, 24, by decide⟩

theorem witness_MinusFallDecrementsWithBorrow :
    (st .on .notProg 0#8 0#8 0#8).progState = .notProg
      ∧ ∃ s : State, s.progState ≠ .notProg ∧ ∃ decS decM decH : Bool,
        decS = decide (s.progState = .editS)
          ∧ decM = (decide (s.progState = .editM) || (decS && decide (s.seconds = 0#8)))
          ∧ decH = (decide (s.progState = .editH) || (decM && decide (s.minutes = 0#8))) :=
  ⟨rfl, st .on .editS 0#8 0#8 0#8, by decide, true, true, true, by decide⟩

theorem witness_AdjustIsClockArithmetic :
    ValidTime (st .on .editS 23#8 59#8 59#8) ∧ (st .on .editS 23#8 59#8 59#8).progState ≠ .notProg := by
  unfold ValidTime; decide

theorem witness_CascadeChoiceIsImmaterialOnTheValidDomain : ValidTime (st .on .editM 0#8 0#8 0#8) := by
  unfold ValidTime; decide

theorem witness_PlusAndMinusTogetherCancel : ValidTime (st .on .editM 23#8 59#8 59#8) := by
  unfold ValidTime; decide

theorem witness_GroupActsInOrder :
    ∀ plus minus mode : Bool, (plus = false ∨ plus = true) ∧ (minus = false ∨ minus = true)
      ∧ (mode = false ∨ mode = true) := by decide

theorem witness_EventStepsTouchOnlySharedStateAndErrors :
    (State.turns { r6 with turns := [.event 0x60#8] } = .event 0x60#8 :: [] ∧ eventWordLegal 0x60#8 = true)
      ∧ (State.turns { r6 with turns := [.event 0x68#8] } = .event 0x68#8 :: [] ∧ eventWordLegal 0x68#8 = false) :=
  ⟨⟨rfl, by decide⟩, ⟨rfl, by decide⟩⟩

theorem witness_EventsReadOnlySharedState :
    ∃ s s' t t' : State, Instr.plusFall.isEvent = true ∧ SameShared s s' ∧ s ≠ s' ∧ exec .plusFall s = .next t
      ∧ exec .plusFall s' = .next t' :=
  ⟨st .on .editS 1#8 2#8 3#8, { st .on .editS 1#8 2#8 3#8 with seqPc := 0x0C#5 }, _, _, rfl, ⟨rfl, rfl, rfl, rfl, rfl⟩,
    by decide, rfl, rfl⟩

theorem witness_AdjustIgnoresPower :
    ∃ s t t' : State, s.powerState = .on ∧ exec .plusFall s = .next t ∧ exec .minusFall s = .next t' :=
  ⟨st .on .editS 1#8 2#8 3#8, _, _, rfl, rfl, rfl⟩

theorem witness_ConversionsRoundTrip : (99#8).toNat ≤ 99 ∧ (0x99#8).toNat / 16 ≤ 9 ∧ (0x99#8).toNat % 16 ≤ 9 := by decide

theorem witness_SetDigitWritesOneElement :
    ((1 ≤ (6#3).toNat ∧ (6#3).toNat ≤ r6.cfg.par.n ∧ (r6.buf .tube).length = r6.cfg.par.n)
        ∧ 1 ≤ (1#3).toNat ∧ (1#3).toNat ≤ r6.cfg.par.n ∧ (r6.buf .blank).length = r6.cfg.par.n)
      ∧ ((0#3).toNat = 0 ∨ (0#3).toNat > r6.cfg.par.n) ∧ ((7#3).toNat = 0 ∨ (7#3).toNat > r6.cfg.par.n) := by decide

theorem witness_PackPlacesNibbles :
    (6#4).toNat ≤ r6.cfg.par.n ∧ (5#4).toNat ≤ r6.cfg.par.n ∧ (0#4).toNat ≤ r6.cfg.par.n
      ∧ (r6.buf .tube).length = r6.cfg.par.n := by decide

theorem witness_PackChecksItsCount : (7#4).toNat > r6.cfg.par.n ∧ (15#4).toNat > r6.cfg.par.n := by decide

theorem witness_DigitsAreTheRegisterNibbles : (99#8).toNat ≤ 99 := by decide

/-- An access of REF6 succeeds. -/
theorem succeeds (s : State) (h : s.cfg = ref6) : AccessSucceeds s s := .inl ⟨by rw [h]; rfl, rfl⟩

/-- Where accesses can fail, one succeeds by the environment's list. -/
theorem succeeds_by_list :
    AccessSucceeds { State.resetOf failing with accessOks := [true] } (State.resetOf failing) :=
  .inr (.inl ⟨rfl, [], rfl, rfl⟩)

theorem witness_InitStepsWriteTheTimeSource :
    AccessSucceeds r6 r6 ∧ AccessSucceeds { State.resetOf failing with accessOks := [true] } (State.resetOf failing) :=
  ⟨succeeds r6 rfl, succeeds_by_list⟩

theorem witness_CollaboratorFailureRetriesOrAbandons :
    r6.cfg.par.collabCanFail = false
      ∧ AccessFails { State.resetOf failing with accessOks := [false] } (State.resetOf failing) :=
  ⟨rfl, rfl, .inl ⟨[], rfl, rfl⟩⟩

theorem witness_SamplingStepsChooseThePath :
    (st .off .notProg 0#8 0#8 0#8).powerState = .off ∧ (st .on .notProg 0#8 0#8 0#8).powerState = .on
      ∧ (st .on .notProg 0#8 0#8 0#8).progState = .notProg ∧ (st .on .editS 0#8 0#8 0#8).progState ≠ .notProg := by decide

theorem witness_BlankTransmitSendsAllOff :
    AccessSucceeds r6 r6 ∧ r6.blankBuf.length = r6.cfg.par.n ∧ ∀ e ∈ r6.blankBuf, e = 0xF#4 :=
  ⟨succeeds r6 rfl, by decide, by decide⟩

theorem witness_TransmitSendsThePackedTubeBuffer : AccessSucceeds r6 r6 ∧ r6.tubeBuf.length = r6.cfg.par.n :=
  ⟨succeeds r6 rfl, by decide⟩

theorem witness_LoadStepsReadTheTimeSource :
    AccessSucceeds { r6 with reads := [0xFF#8] } { r6 with reads := [0xFF#8] }
      ∧ TimeSourceAnswers { r6 with reads := [0xFF#8] } 0xFF#8 r6
      ∧ (165#8).toNat = 10 * ((0xFF#8).toNat / 16) + (0xFF#8).toNat % 16
      ∧ TimeSourceAnswers r6 (Config.freeReadByte 0) { r6 with draws := 1 } :=
  ⟨succeeds _ rfl, .inl ⟨[], rfl, rfl⟩, by decide, .inr ⟨rfl, rfl, rfl⟩⟩

theorem witness_WriteBackFollowsTheOrder :
    AccessSucceeds { r6 with qSnap := .editH } { r6 with qSnap := .editH }
      ∧ AccessSucceeds { r6 with qSnap := .editM } { r6 with qSnap := .editM }
      ∧ AccessSucceeds { r6 with qSnap := .editS } { r6 with qSnap := .editS } :=
  ⟨succeeds _ rfl, succeeds _ rfl, succeeds _ rfl⟩

theorem witness_MapStepsPlaceDigits :
    (State.resetOf partial4).tubeBuf.length = (State.resetOf partial4).cfg.par.n
      ∧ (State.resetOf partial4).cfg.par.tubeMap.at .s .tens = none
      ∧ (State.resetOf partial4).cfg.par.tubeMap.at .h .tens = some 1
      ∧ (State.resetOf partial4).cfg.par.tubeMap.at .m .tens = some 3 := by decide

theorem witness_FailSafeBlanksAndIsNeverTaken :
    (Instr.lMapH.isStep = true ∧ ∃ t, exec .lMapH r6 = .next t)
      ∧ (0 < 1 ∨ 0 > r6.cfg.par.n ∨ 1 < 1 ∨ 1 > r6.cfg.par.n) ∧ (1 < 1 ∨ 1 > r6.cfg.par.n ∨ 7 < 1 ∨ 7 > r6.cfg.par.n) :=
  ⟨⟨rfl, _, rfl⟩, by decide, by decide⟩

/-- Whether `i` answers a next state that differs from `s` in `f`. -/
def changes {α : Type} [DecidableEq α] (f : State → α) (i : Instr) (s : State) : Bool :=
  match exec i s with
  | .next t => decide (f t ≠ f s)
  | .fault _ => false
  | .refused _ => false

/-- A state whose next access fails, or succeeds, in a configuration where accesses can fail. -/
def drawing (ok : Bool) : State := { State.resetOf failing with accessOks := [ok], reads := [0x23#8] }

/-- Each clause's hypothesis is met, at least once: shared state, buffers, sequencer state. -/
theorem witness_OnlyTheListedWritersWrite :
    changes State.powerState .pwrFall r6 = true ∧ changes State.progState .modeFall r6 = true
      ∧ changes State.progState (.grpPc true true false) r6 = true
      ∧ changes State.hours .plusFall (st .on .editH 1#8 2#8 3#8) = true ∧ changes State.hours .lLoadH (drawing true) = true
      ∧ changes State.minutes (.grpPc true false true) (st .on .editM 1#8 2#8 3#8) = true
      ∧ changes State.seconds (.grpPc false true true) (st .on .editS 1#8 2#8 3#8) = true
      ∧ changes State.tubeBuf .lMapH r6 = true ∧ changes State.tubeBuf (.tbSetDigit .tube 6#3 1#4) r6 = true
      ∧ changes State.blankBuf (.tbSetDigit .blank 1#3 1#4) r6 = true
      ∧ changes State.lastTx .lTx r6 = true ∧ changes State.seqPc .lClear r6 = true
      ∧ changes State.pSnap .lPower r6 = true ∧ changes State.qSnap .lProg (st .on .editH 1#8 2#8 3#8) = true := by decide

/-- The same for the error record, the history and the model's own fields; the positions and counts are those next to the range. -/
theorem witness_OnlyTheListedWritersWrite_errors_and_accesses :
    changes (fun s => s.errFlags.getLsbD 0) (.tbSetDigit .tube 0#3 1#4) r6 = true
      ∧ changes (fun s => s.errFlags.getLsbD 0) (.tbSetDigit .blank 7#3 1#4) r6 = true
      ∧ changes State.errCause (.pack .tube 7#4) r6 = true ∧ changes State.errCause (.pack .tube 6#4) r6 = false
      ∧ changes (fun s => s.errFlags.getLsbD 2) .initCtrl (drawing false) = true
      ∧ changes State.errCause .lTx (drawing false) = true
      ∧ changes State.history .lLoadS (drawing true) = true ∧ changes State.history .lWb1 { r6 with qSnap := .editH } = true
      ∧ changes State.history .lBlankTx r6 = true ∧ changes State.portResult (.toReg 59#8) r6 = true
      ∧ changes State.reads .lLoadM (drawing true) = true ∧ changes State.accessOks .lWb2 (drawing false) = true
      ∧ changes State.draws .lLoadH r6 = true := by decide

theorem witness_OnlyTheListedWritersWrite_illegal_event :
    ∃ s t : State, step s = .next t ∧ t.errFlags.getLsbD 1 ≠ s.errFlags.getLsbD 1 :=
  ⟨{ r6 with turns := [.event 0x30#8] }, _, rfl, by decide⟩

theorem witness_ErrorRecordIsSticky :
    ∃ s t : State, s.nextTurn.1 ≠ .reset ∧ step s = .next t ∧ s.errCause ≠ 0#4 :=
  ⟨{ r6 with errFlags := 4#3, errCause := 4#4, turns := [.event 0x30#8] }, _, by decide, rfl, by decide⟩

theorem witness_HistoryGrowsByAllowedAccesses :
    ∃ t u : State, step { r6 with turns := [.sequencer] } = .next t
      ∧ step { r6 with history := [.rtcWrite 0#8 0#8], turns := [.reset] } = .next u := ⟨_, _, rfl, rfl⟩

theorem witness_FieldsStayInRange :
    ∃ s t u v : State, FieldsBounded s ∧ s.progState ≠ .notProg ∧ step s = .next t ∧ exec .plusFall s = .next u
      ∧ exec .minusFall s = .next v :=
  ⟨{ st .on .editM 165#8 165#8 165#8 with turns := [.event 0x60#8] }, _, _, _,
    ⟨by decide, by decide, by decide⟩, by decide, rfl, rfl, rfl⟩

theorem witness_SnapshotsFixThePath :
    ∃ t u : State, Instr.lTx.isStep = true ∧ exec .lTx r6 = .next t ∧ Instr.lTx ≠ .lPower ∧ Instr.lTx ≠ .lProg
      ∧ Instr.lPower.isStep = true ∧ exec .lPower r6 = .next u := ⟨_, _, rfl, rfl, by decide, by decide, rfl, rfl⟩

theorem witness_LoadOverwritesAnAdjust : AccessSucceeds r6 r6 := succeeds r6 rfl

theorem witness_ConfigurationsAreTheWellFormedParameters :
    (∃ c, Config.ofParameters ref6.par = some c ∧ c.par = ref6.par)
      ∧ ¬ ∃ c, Config.ofParameters { ref6.par with n := 5 } = some c ∧ c.par = { ref6.par with n := 5 } := by
  refine ⟨⟨ref6, by decide, rfl⟩, ?_⟩
  rintro ⟨c, h, _⟩
  rw [test_wf_refuses_count.1] at h
  cases h

theorem witness_ResetValues :
    ∃ r : State, (r = State.resetOf r6.cfg)
      ∧ ∃ s u : State, s.turns = .reset :: [] ∧ step s = .next u :=
  ⟨_, rfl, { st .off .editS 1#8 2#8 3#8 with turns := [.reset] }, _, rfl, rfl⟩

/-- REF6 with the next turn the sequencer's meets the invariant. -/
theorem inv_r6 : Inv { r6 with turns := [.sequencer] } where
  fields := ⟨by decide, by decide, by decide⟩
  buffers := ⟨by decide, by decide⟩
  errorRecord := ⟨by decide, .inl rfl, by decide, by decide⟩
  path := by unfold PathOk; decide
  history := ⟨fun a h => absurd h (List.not_mem_nil (a := a)), rfl, rfl⟩
  turns := by unfold TurnsOk; decide

theorem witness_EveryStepKeepsTheInvariant :
    ∃ s t : State, Inv s ∧ step s = .next t := ⟨_, _, inv_r6, rfl⟩

theorem witness_TheBlockNeverStops : ∃ s : State, Inv s := ⟨_, inv_r6⟩

theorem witness_BootWritesControlThenSeeds :
    (ref6.par.collabCanFail = false ∧ ref6.par.seedOnReset = true)
      ∧ ∃ c : Config, c.par.collabCanFail = false ∧ c.par.seedOnReset = false :=
  ⟨⟨rfl, rfl⟩, { par := { ref6.par with seedOnReset := false } }, rfl, rfl⟩

theorem witness_PoweredOffIteration :
    ∃ s : State, s.seqPc = 0x04#5 ∧ s.powerState = .off ∧ s.cfg.par.collabCanFail = false
      ∧ s.turns = sequencerTurns 3 ++ [] :=
  ⟨{ st .off .editS 23#8 59#8 59#8 with seqPc := 0x04#5, turns := sequencerTurns 3 }, rfl, rfl, rfl, rfl⟩

theorem witness_LoadingIteration :
    ∃ s : State, s.seqPc = 0x04#5 ∧ s.powerState = .on ∧ s.progState = .notProg ∧ s.cfg.par.collabCanFail = false
      ∧ s.turns = sequencerTurns 10 ++ [] ∧ s.reads = 0x23#8 :: 0x59#8 :: 0x07#8 :: [] :=
  ⟨{ st .on .notProg 0#8 0#8 0#8 with
      seqPc := 0x04#5, turns := sequencerTurns 10, reads := [0x23#8, 0x59#8, 0x07#8] }, rfl, rfl, rfl, rfl, rfl, rfl⟩

/-- The state of an editing iteration's first step. -/
def editing (q : ProgState) : State :=
  { st .on q 10#8 20#8 30#8 with seqPc := 0x04#5, turns := sequencerTurns 10 }

theorem witness_EditingIteration :
    ∀ x ∈ [(ProgState.editH, Field.h, Field.m, Field.s), (.editM, .m, .h, .s), (.editS, .s, .h, .m)],
      (editing x.1).seqPc = 0x04#5 ∧ (editing x.1).powerState = .on ∧ (editing x.1).cfg.par.collabCanFail = false
        ∧ (editing x.1).turns = sequencerTurns 10 ++ []
        ∧ (((editing x.1).progState = .editH ∧ x.2.1 = .h ∧ x.2.2.1 = .m ∧ x.2.2.2 = .s)
          ∨ ((editing x.1).progState = .editM ∧ x.2.1 = .m ∧ x.2.2.1 = .h ∧ x.2.2.2 = .s)
          ∨ ((editing x.1).progState = .editS ∧ x.2.1 = .s ∧ x.2.2.1 = .h ∧ x.2.2.2 = .m)) := by decide

/-- A position that no digit has, for the statements about iterations. -/
theorem witness_unmapped_position :
    (1 ≤ 5 ∧ 5 ≤ unmapped.par.n) ∧ ∀ f d, unmapped.par.tubeMap.at f d ≠ some 5 :=
  ⟨by decide, by intro f d; cases f <;> cases d <;> decide⟩

theorem witness_EventDuringBootMakesTheFirstIterationWriteZeros :
    ref6.par.collabCanFail = false ∧ ref6.par.powerReset = .on ∧ ref6.par.seedOnReset = true := ⟨rfl, rfl, rfl⟩

end Sys2Proof.Tests
end

/-! PROOFS. Configurations: 00_scope.md rules R7 and R8. -/

namespace Sys2Proof

/-! ## Which parameters give a configuration -/

/-- The six digits of the display, in the order in which `TubeMap.positions` lists their positions. -/
def TubeMap.digits : List (Field × Digit) :=
  [(.h, .tens), (.h, .ones), (.m, .tens), (.m, .ones), (.s, .tens), (.s, .ones)]

theorem TubeMap.positions_eq_filterMap_digits (t : TubeMap) :
    t.positions = TubeMap.digits.filterMap fun x => t.at x.1 x.2 := rfl

theorem TubeMap.inRange_of_forall_at {n : Nat} {t : TubeMap}
    (h : ∀ f d p, t.at f d = some p → 1 ≤ p ∧ p ≤ n) : t.inRange n = true := by
  rw [TubeMap.inRange, List.all_eq_true, TubeMap.positions_eq_filterMap_digits]
  intro p hp
  obtain ⟨⟨f, d⟩, -, hat⟩ := List.mem_filterMap.1 hp
  exact decide_eq_true (h f d p hat)

theorem TubeMap.injective_of_forall_at {t : TubeMap}
    (h : ∀ f d f' d' p, t.at f d = some p → t.at f' d' = some p → f = f' ∧ d = d') : t.injective = true := by
  have hdigits : TubeMap.digits.Nodup := by decide
  rw [TubeMap.injective, TubeMap.positions_eq_filterMap_digits]
  refine decide_eq_true (hdigits.filterMap ?_)
  rintro ⟨f, d⟩ ⟨f', d'⟩ p hp hp'
  obtain ⟨rfl, rfl⟩ := h f d f' d' p hp hp'
  rfl

theorem TubeMap.paired_iff (t : TubeMap) :
    t.paired = true ↔ ∀ f, t.at f .tens = none ↔ t.at f .ones = none := by
  have same : ∀ a b : Option Nat, a.isSome = b.isSome ↔ (a = none ↔ b = none) := by
    intro a b
    cases a <;> cases b <;> simp
  simp only [TubeMap.paired, Bool.and_eq_true, beq_iff_eq, same]
  constructor
  · rintro ⟨⟨hh, hm⟩, hs⟩ f
    cases f
    · exact hh
    · exact hm
    · exact hs
  · exact fun h => ⟨⟨h .h, h .m⟩, h .s⟩

theorem Parameters.tubeCountLegal_iff (p : Parameters) :
    p.tubeCountLegal = true ↔ p.n = 2 ∨ p.n = 4 ∨ p.n = 6 := by
  simp [Parameters.tubeCountLegal, or_assoc]

theorem Parameters.offsetsDistinct_iff (p : Parameters) :
    p.offsetsDistinct = true ↔
      p.rtcOffH ≠ p.rtcOffM ∧ p.rtcOffH ≠ p.rtcOffS ∧ p.rtcOffH ≠ p.rtcOffCtrl ∧ p.rtcOffM ≠ p.rtcOffS
        ∧ p.rtcOffM ≠ p.rtcOffCtrl ∧ p.rtcOffS ≠ p.rtcOffCtrl := by
  simp [Parameters.offsetsDistinct, and_assoc]

/-- The refusal of rule R8 goes by `Parameters.wf` alone; `Config.ok` gives the forward direction. -/
theorem Config.exists_ofParameters_iff (p : Parameters) :
    (∃ c, Config.ofParameters p = some c ∧ c.par = p) ↔ p.wf = true := by
  constructor
  · rintro ⟨c, -, rfl⟩
    exact c.ok
  · exact fun h => ⟨⟨p, h⟩, dif_pos h, rfl⟩

theorem Config.ofParameters_eq_none {p : Parameters} (h : ¬ p.wf = true) : Config.ofParameters p = none :=
  dif_neg h

/-- Settles O48: every configuration meets rule R8's conditions by the laws of `Config`, and each condition gives its part of
`Parameters.wf`. -/
theorem configurationsAreTheWellFormedParameters : Obligations.ConfigurationsAreTheWellFormedParameters := by
  intro p
  refine ⟨⟨?_, ?_⟩, fun h => Config.ofParameters_eq_none (mt (Config.exists_ofParameters_iff p).2 h)⟩
  · rintro ⟨c, -, rfl⟩
    obtain ⟨hcount, -, -, hpaired, hoffsets⟩ := Machine.Config.parts c
    exact ⟨hcount, Machine.Config.position_range c,
      fun f d f' d' => Machine.Config.positions_distinct c f f' d d',
      (TubeMap.paired_iff _).1 hpaired, (Parameters.offsetsDistinct_iff _).1 hoffsets⟩
  · rintro ⟨hcount, hrange, hdistinct, hpaired, hoffsets⟩
    refine (Config.exists_ofParameters_iff p).2 ?_
    simp only [Parameters.wf, Bool.and_eq_true]
    exact ⟨⟨⟨⟨(Parameters.tubeCountLegal_iff p).2 hcount, TubeMap.inRange_of_forall_at hrange⟩,
      TubeMap.injective_of_forall_at hdistinct⟩, (TubeMap.paired_iff _).2 hpaired⟩,
      (Parameters.offsetsDistinct_iff p).2 hoffsets⟩

/-! ## The hardware's own parameters -/

/-- Settles O49: `Parameters.withHardwareValues` fixes the three parameters, whatever the open ones are, and reset copies
POWER_RESET to `power_state`. -/
theorem hardwareSeedsStartsOnAndDoesNotFail : Obligations.HardwareSeedsStartsOnAndDoesNotFail :=
  ⟨rfl, rfl, rfl, rfl⟩

end Sys2Proof

/-! PROOFS. The state: 10_state.md. First what the event actions leave alone and keep bounded, then the invariant of rule R34, at
reset and over a step. -/

namespace Sys2Proof.Machine

/-! ## What each port's decoder answers -/

/-- A step code decodes only to a step of the sequencer, and only to the one that has this code (rule R78). -/
theorem isStep_and_encode_of_decodeStepCode {c : BitVec 5} {i : Instr} (h : decodeStepCode c = .ok i) :
    i.isStep = true ∧ encode i = .stepCode c := by
  have all : ∀ c : BitVec 5, (match decodeStepCode c with
      | .ok i => i.isStep && decide (encode i = .stepCode c)
      | .error _ => true) = true := by decide
  simpa [h] using all c

/-- An event word decodes only to an event (rule R72). -/
theorem isEvent_of_decodeEvent {w : BitVec 8} {i : Instr} (h : decodeEvent w = .ok i) : i.isEvent = true := by
  have all : ∀ w : BitVec 8, (match decodeEvent w with
      | .ok i => i.isEvent
      | .error _ => true) = true := by decide
  simpa [h] using all w

/-! ## Small facts about the shared operations -/

theorem State.hms_h (s : State) : s.hms.h = s.hours.toNat := rfl
theorem State.hms_m (s : State) : s.hms.m = s.minutes.toNat := rfl
theorem State.hms_s (s : State) : s.hms.s = s.seconds.toNat := rfl

/-- The active field takes `d`, so each field takes `d` or nothing (rule R171). -/
theorem bumpField_each (q : ProgState) (d : Int) (t : Hms) :
    ((bumpField q d t).h = t.h ∨ (bumpField q d t).h = t.h + d)
      ∧ ((bumpField q d t).m = t.m ∨ (bumpField q d t).m = t.m + d)
      ∧ ((bumpField q d t).s = t.s ∨ (bumpField q d t).s = t.s + d) := by
  cases q <;> simp [bumpField]

theorem errFlagsAfter_ne_zero (c : Cause) (flags : BitVec 3) : errFlagsAfter c flags ≠ 0#3 := by
  cases c <;> revert flags <;> decide

theorem errCauseAfter_ne_zero (c : Cause) (cause : BitVec 4) : errCauseAfter c cause ≠ 0#4 := by
  cases c <;> revert cause <;> decide

/-- An error leaves the flags of the other causes alone (rule R241). -/
theorem errFlagsAfter_getLsbD_of_other {c : Cause} {flags : BitVec 3} {k : Nat}
    (h : (causeFlag c).getLsbD k = false) : (errFlagsAfter c flags).getLsbD k = flags.getLsbD k := by
  rw [errFlagsAfter, BitVec.getLsbD_or, h, Bool.or_false]

/-- After an error the cause's flag is set, and no flag is lost. -/
theorem errFlagsAfter_and (c : Cause) (flags : BitVec 3) :
    errFlagsAfter c flags &&& causeFlag c = causeFlag c
      ∧ ∀ c', flags &&& causeFlag c' = causeFlag c' → errFlagsAfter c flags &&& causeFlag c' = causeFlag c' := by
  refine ⟨?_, fun c' => ?_⟩
  · cases c <;> revert flags <;> decide
  · generalize causeFlag c' = g
    cases c <;> revert flags g <;> decide

theorem State.drawOk_cfg_seqPc (s : State) : s.drawOk.2.cfg = s.cfg ∧ s.drawOk.2.seqPc = s.seqPc := by
  obtain ⟨oks, n, e⟩ := State.drawOk_changes s
  rw [e]
  exact ⟨rfl, rfl⟩

end Sys2Proof.Machine

namespace Sys2Proof

open Sys2Proof.Machine

/-! ## The time fields stay in 0..165 (rule R175) -/

/-- A stored time is in bounds when its three integers are. -/
theorem fieldsBounded_storeHms (s : State) (x : Hms) (hh : 0 ≤ x.h ∧ x.h ≤ 165) (hm : 0 ≤ x.m ∧ x.m ≤ 165)
    (hs : 0 ≤ x.s ∧ x.s ≤ 165) : FieldsBounded (s.storeHms x) := by
  have eh := toNat_ofInt_field x.h (by omega)
  have em := toNat_ofInt_field x.m (by omega)
  have es := toNat_ofInt_field x.s (by omega)
  simp only [FieldsBounded, State.storeHms_hours, State.storeHms_minutes, State.storeHms_seconds]
  omega

/-- An adjust plus stores at most 166 + 1 less 60 in a field that overflows; the hours wrap to 0. -/
theorem FieldsBounded.actAdjustPlus {s : State} (h : FieldsBounded s) : FieldsBounded s.actAdjustPlus := by
  by_cases hq : s.progState = .notProg
  · rwa [(State.actAdjust_notProg s hq).1]
  · rw [(State.actAdjust_editing s hq).1]
    obtain ⟨bh, bm, bs⟩ := bumpField_each s.progState 1 s.hms
    obtain ⟨m1, h1, cs, cm, ch⟩ := carryCascade_spec (bumpField s.progState 1 s.hms)
    simp only [State.hms_h, State.hms_m, State.hms_s] at bh bm bs
    unfold FieldsBounded at h
    exact fieldsBounded_storeHms _ _ (by omega) (by omega) (by omega)

/-- An adjust minus stores at most what was there, or the wrap's 59 or 23. -/
theorem FieldsBounded.actAdjustMinus {s : State} (h : FieldsBounded s) : FieldsBounded s.actAdjustMinus := by
  by_cases hq : s.progState = .notProg
  · rwa [(State.actAdjust_notProg s hq).2]
  · rw [(State.actAdjust_editing s hq).2]
    obtain ⟨bh, bm, bs⟩ := bumpField_each s.progState (-1) s.hms
    obtain ⟨m1, h1, cs, cm, ch⟩ := borrowCascade_spec (bumpField s.progState (-1) s.hms)
    simp only [State.hms_h, State.hms_m, State.hms_s] at bh bm bs
    unfold FieldsBounded at h
    exact fieldsBounded_storeHms _ _ (by omega) (by omega) (by omega)

/-- A mode event writes no field (rule R165). -/
theorem FieldsBounded.actCycleMode {s : State} (h : FieldsBounded s) : FieldsBounded s.actCycleMode := by
  rw [State.actCycleMode_frame]
  exact h

theorem FieldsBounded.exec_event {s t : State} {i : Instr} (h : FieldsBounded s) (hi : i.isEvent = true)
    (hx : exec i s = .next t) : FieldsBounded t := by
  cases i with
  | pwrPc level => cases hx; cases level <;> exact h
  | grpPc plus minus mode =>
    cases hx
    have h1 : FieldsBounded (if plus then s else s.actAdjustPlus) := by
      split
      · exact h
      · exact h.actAdjustPlus
    generalize (if plus then s else s.actAdjustPlus) = s1 at h1 ⊢
    have h2 : FieldsBounded (if minus then s1 else s1.actAdjustMinus) := by
      split
      · exact h1
      · exact h1.actAdjustMinus
    generalize (if minus then s1 else s1.actAdjustMinus) = s2 at h2 ⊢
    change FieldsBounded (if mode then s2 else s2.actCycleMode)
    split
    · exact h2
    · exact h2.actCycleMode
  | pwrFall => cases hx; exact h
  | modeFall => cases hx; exact h.actCycleMode
  | plusFall => cases hx; exact h.actAdjustPlus
  | minusFall => cases hx; exact h.actAdjustMinus
  | _ => simp [Instr.isEvent] at hi

theorem FieldsBounded.setField {s : State} (h : FieldsBounded s) (f : Field) {v : Byte} (hv : v.toNat ≤ 165) :
    FieldsBounded (s.setField f v) := by
  obtain ⟨hh, hm, hs⟩ := h
  cases f
  · exact ⟨hv, hm, hs⟩
  · exact ⟨hh, hv, hs⟩
  · exact ⟨hh, hm, hv⟩

/-! ## The error record -/

/-- An error other than PackingError keeps the record in form, COLLAB_FAIL only where accesses can fail. -/
theorem ErrorRecordOk.raise {s : State} (h : ErrorRecordOk s) {c : Cause}
    (hc : c = .illegalEvent ∨ c = .collabFail ∧ s.cfg.par.collabCanFail = true) : ErrorRecordOk (s.raise c) := by
  obtain ⟨-, hcause, hpack, hfail⟩ := h
  obtain ⟨hset, hkept⟩ := errFlagsAfter_and c s.errFlags
  refine ⟨iff_of_false (errCauseAfter_ne_zero _ _) (errFlagsAfter_ne_zero _ _), .inr ?_, ?_, fun hcan => ?_⟩
  · by_cases h0 : s.errCause = 0#4
    · exact ⟨c, if_pos h0, hset⟩
    · obtain ⟨c', hc', hflag⟩ := hcause.resolve_left h0
      exact ⟨c', (if_neg h0).trans hc', hkept c' hflag⟩
  · refine (errFlagsAfter_getLsbD_of_other ?_).trans hpack
    rcases hc with rfl | ⟨rfl, -⟩ <;> rfl
  · rw [State.raise_cfg] at hcan
    rcases hc with rfl | ⟨-, hcan'⟩
    · exact (errFlagsAfter_getLsbD_of_other rfl).trans (hfail hcan)
    · rw [hcan] at hcan'
      cases hcan'

/-! ## The sequencer's path -/

/-- Of two step codes, neither INIT_CTRL: whatever `PathOk` asks of the snapshots at the second, it asks at the first. -/
def follows (code next : BitVec 5) : Bool :=
  decide (code ≠ codeInitCtrl ∧ next ≠ codeInitCtrl ∧ next.toNat ≤ 0x12
    ∧ (0x01 ≤ next.toNat → next.toNat ≤ 0x03 → 0x01 ≤ code.toNat ∧ code.toNat ≤ 0x03)
    ∧ (0x05 ≤ next.toNat → next.toNat ≤ 0x06 → 0x05 ≤ code.toNat ∧ code.toNat ≤ 0x06)
    ∧ (0x07 ≤ next.toNat → 0x07 ≤ code.toNat)
    ∧ (0x08 ≤ next.toNat → next.toNat ≤ 0x0A → 0x08 ≤ code.toNat ∧ code.toNat ≤ 0x0A)
    ∧ (0x0B ≤ next.toNat → next.toNat ≤ 0x0D → 0x0B ≤ code.toNat ∧ code.toNat ≤ 0x0D))

theorem ne_initCtrl_of_follows {code next : BitVec 5} (h : follows code next = true) :
    code ≠ codeInitCtrl ∧ next ≠ codeInitCtrl := by
  obtain ⟨hcode, hnext, -⟩ := of_decide_eq_true h
  exact ⟨hcode, hnext⟩

theorem PathOk.goto {s : State} (h : PathOk s) {next : BitVec 5} (hf : follows s.seqPc next = true) :
    PathOk (s.goto next) := by
  obtain ⟨-, -, hle, fseed, foff, fon, fload, fwb⟩ := of_decide_eq_true hf
  obtain ⟨-, hseed, hoff, hon, hload, hwb⟩ := h
  refine ⟨hle, fun h1 h2 => ?_, fun h1 h2 => ?_, fun h1 => hon (fon h1), fun h1 h2 => ?_, fun h1 h2 => ?_⟩
  · obtain ⟨g1, g2⟩ := fseed h1 h2
    exact hseed g1 g2
  · obtain ⟨g1, g2⟩ := foff h1 h2
    exact hoff g1 g2
  · obtain ⟨g1, g2⟩ := fload h1 h2
    exact hload g1 g2
  · obtain ⟨g1, g2⟩ := fwb h1 h2
    exact hwb g1 g2

/-! ## The access history -/

theorem accessAllowed_rtcRead (p : Parameters) (f : Field) (b : Byte) : accessAllowed p (.rtcRead (p.rtcOff f) b) := by
  cases f <;> simp [accessAllowed, Parameters.rtcOff]

theorem accessAllowed_rtcWrite (p : Parameters) (f : Field) (b : Byte) : accessAllowed p (.rtcWrite (p.rtcOff f) b) := by
  cases f <;> simp [accessAllowed, Parameters.rtcOff]

/-- The last transmit is unchanged by an access that is none, and else is that access's. -/
theorem lastTransmitted_append (h : List Access) (a : Access) :
    lastTransmitted (h ++ [a]) = match a with
      | .transmit bytes _ => bytes
      | .rtcRead _ _ => lastTransmitted h
      | .rtcWrite _ _ => lastTransmitted h := by
  cases a <;> simp [lastTransmitted]

/-- The number of writes of the control offset in the history. -/
def ctrlWrites (s : State) : Nat := (s.history.filter (isCtrlWrite s.cfg.par)).length

theorem ctrlWrites_record (s : State) (a : Access) :
    ctrlWrites (s.record a) = ctrlWrites s + if isCtrlWrite s.cfg.par a then 1 else 0 := by
  unfold ctrlWrites
  rw [State.record_history, State.record_cfg, List.filter_append, List.length_append, List.filter_singleton]
  split <;> simp_all

theorem HistoryOk.goto {s : State} (h : HistoryOk s) {next : BitVec 5} (hpc : s.seqPc ≠ codeInitCtrl)
    (hnext : next ≠ codeInitCtrl) : HistoryOk (s.goto next) := by
  obtain ⟨hall, hctrl, hlast⟩ := h
  exact ⟨hall, hctrl.trans ((if_neg hpc).trans (if_neg hnext).symm), hlast⟩

/-- One more read or write of a time offset. -/
theorem HistoryOk.record {s : State} (h : HistoryOk s) {a : Access} (hallowed : accessAllowed s.cfg.par a)
    (hctrl : isCtrlWrite s.cfg.par a = false) (htx : isTransmit a = false) : HistoryOk (s.record a) := by
  obtain ⟨hall, hcount, hlast⟩ := h
  refine ⟨?_, ?_, ?_⟩
  · simpa [or_imp, forall_and] using ⟨hall, hallowed⟩
  · have hsame : ctrlWrites (s.record a) = ctrlWrites s := by simp [ctrlWrites_record, hctrl]
    exact hsame.trans hcount
  · rw [State.record_history, lastTransmitted_append]
    cases a with
    | transmit => cases htx
    | rtcRead | rtcWrite => exact hlast

/-- INIT_CTRL's write is the first of the control offset, and `seq_pc` leaves INIT_CTRL with it. -/
theorem HistoryOk.record_ctrl {s : State} (h : HistoryOk s) {next : BitVec 5} (hpc : s.seqPc = codeInitCtrl)
    (hnext : next ≠ codeInitCtrl) :
    HistoryOk ((s.record (.rtcWrite s.cfg.par.rtcOffCtrl s.cfg.par.ctrl24hValue)).goto next) := by
  obtain ⟨hall, hcount, hlast⟩ := h
  have hnone : ctrlWrites s = 0 := hcount.trans (if_pos hpc)
  refine ⟨?_, ?_, ?_⟩
  · simpa [or_imp, forall_and, accessAllowed] using hall
  · refine (ctrlWrites_record s _).trans ?_
    simp [hnone, isCtrlWrite, hnext]
  · simpa [lastTransmitted_append] using hlast

/-- One more transmit, with `last_tx` its bytes. -/
theorem HistoryOk.transmit {s : State} (h : HistoryOk s) {bytes : List Byte}
    (hlen : bytes.length = (s.cfg.par.n + 1) / 2) :
    HistoryOk ((s.record (.transmit bytes s.cfg.par.serialMsbFirst)).setLastTx bytes) := by
  obtain ⟨hall, hcount, -⟩ := h
  refine ⟨?_, ?_, ?_⟩
  · simpa [or_imp, forall_and, accessAllowed, hlen] using hall
  · have hsame := ctrlWrites_record s (.transmit bytes s.cfg.par.serialMsbFirst)
    exact hsame.trans hcount
  · simp [lastTransmitted_append]

/-! ## The invariant, over each operation of a step -/

/-- The invariant asks of the environment only that the fixed turns are the block's. -/
theorem Inv.of_environment {s : State} (h : Inv s) {ts : List Turn} (hts : ∀ t ∈ ts, turnIsBlocks t = true)
    (rs : List Byte) (oks : List Bool) (n : Nat) :
    Inv { s with turns := ts, reads := rs, accessOks := oks, draws := n } :=
  ⟨h.fields, h.buffers, h.errorRecord, h.path, h.history, hts⟩

theorem Inv.nextTurn {s : State} (h : Inv s) : Inv s.nextTurn.2 := by
  obtain ⟨-, hturns⟩ := State.nextTurn_ok s h.turns
  obtain ⟨ts, n, e⟩ := State.nextTurn_changes s
  rw [e] at hturns ⊢
  exact h.of_environment hturns s.reads s.accessOks n

theorem Inv.drawOk {s : State} (h : Inv s) : Inv s.drawOk.2 := by
  obtain ⟨oks, n, e⟩ := State.drawOk_changes s
  rw [e]
  exact h.of_environment h.turns s.reads oks n

theorem Inv.drawByte {s : State} (h : Inv s) : Inv s.drawByte.2 := by
  obtain ⟨rs, n, e⟩ := State.drawByte_changes s
  rw [e]
  exact h.of_environment h.turns rs s.accessOks n

theorem Inv.goto {s : State} (h : Inv s) {next : BitVec 5} (hf : follows s.seqPc next = true) : Inv (s.goto next) := by
  obtain ⟨hpc, hnext⟩ := ne_initCtrl_of_follows hf
  exact ⟨h.fields, h.buffers, h.errorRecord, h.path.goto hf, h.history.goto hpc hnext, h.turns⟩

theorem Inv.raise {s : State} (h : Inv s) {c : Cause}
    (hc : c = .illegalEvent ∨ c = .collabFail ∧ s.cfg.par.collabCanFail = true) : Inv (s.raise c) :=
  ⟨h.fields, h.buffers, h.errorRecord.raise hc, h.path, h.history, h.turns⟩

theorem Inv.setField {s : State} (h : Inv s) (f : Field) {v : Byte} (hv : v.toNat ≤ 165) : Inv (s.setField f v) := by
  have hfields := h.fields.setField f hv
  obtain ⟨-, hbuffers, herror, hpath, hhistory, hturns⟩ := h
  cases f <;> exact ⟨hfields, hbuffers, herror, hpath, hhistory, hturns⟩

/-- One more read or write of a time offset. -/
theorem Inv.record {s : State} (h : Inv s) {a : Access} (hallowed : accessAllowed s.cfg.par a)
    (hctrl : isCtrlWrite s.cfg.par a = false) (htx : isTransmit a = false) : Inv (s.record a) :=
  ⟨h.fields, h.buffers, h.errorRecord, h.path, h.history.record hallowed hctrl htx, h.turns⟩

theorem Inv.transmit {s : State} (h : Inv s) {bytes : List Byte} (hlen : bytes.length = (s.cfg.par.n + 1) / 2) :
    Inv ((s.record (.transmit bytes s.cfg.par.serialMsbFirst)).setLastTx bytes) :=
  ⟨h.fields, h.buffers, h.errorRecord, h.path, h.history.transmit hlen, h.turns⟩

theorem Inv.setTubeBuf {s : State} (h : Inv s) {b : List Nibble} (hb : b.length = s.cfg.par.n) :
    Inv (s.setBuf .tube b) :=
  ⟨h.fields, ⟨hb, h.buffers.2⟩, h.errorRecord, h.path, h.history, h.turns⟩

theorem Inv.clearAll {s : State} (h : Inv s) (sel : BufSel) : Inv (s.clearAll sel) := by
  cases sel
  · exact h.setTubeBuf List.length_replicate
  · exact ⟨h.fields, ⟨h.buffers.1, rfl⟩, h.errorRecord, h.path, h.history, h.turns⟩

/-! ## The invariant, over the steps of the sequencer

`code` is where the sequencer stands and `next` the successor that the step names. -/

section
variable {s : State} {code next : BitVec 5}

/-- A failed access after the boot abandons the iteration, only where accesses can fail (rule R202). -/
theorem Inv.abandon (h : Inv s) (hok : s.drawOk.1 = false) (hpc : s.seqPc = code)
    (hf : follows code codePower = true) : Inv s.drawOk.2.abandonAfterFail := by
  obtain ⟨hcfg, hseqPc⟩ := State.drawOk_cfg_seqPc s
  have hcan : s.drawOk.2.cfg.par.collabCanFail = true := hcfg ▸ State.drawOk_fails s hok
  exact (h.drawOk.raise (.inr ⟨rfl, hcan⟩)).goto (by rwa [State.raise_seqPc, hseqPc, hpc])

/-- A failed access in a step INIT_* leaves `seq_pc` (rule R202). -/
theorem Inv.retry (h : Inv s) (hok : s.drawOk.1 = false) : Inv s.drawOk.2.retryAfterFail := by
  obtain ⟨hcfg, -⟩ := State.drawOk_cfg_seqPc s
  exact h.drawOk.raise (.inr ⟨rfl, hcfg ▸ State.drawOk_fails s hok⟩)

/-- INIT_CTRL (rule R203): the successor is INIT_SEED_H only if SEED_ON_RESET. -/
theorem Inv.initCtrl (h : Inv s) (hpc : s.seqPc = codeInitCtrl) :
    Inv (s.rtcWriteThen s.cfg.par.rtcOffCtrl s.cfg.par.ctrl24hValue
      (if s.cfg.par.seedOnReset then codeInitSeedH else codePower) State.retryAfterFail) := by
  obtain ⟨hcfg, hseqPc⟩ := State.drawOk_cfg_seqPc s
  rcases State.rtcWriteThen_cases s s.cfg.par.rtcOffCtrl s.cfg.par.ctrl24hValue
    (if s.cfg.par.seedOnReset then codeInitSeedH else codePower) State.retryAfterFail with ⟨-, e⟩ | ⟨hok, e⟩
  · obtain ⟨hfields, hbuffers, herror, -, hhistory, hturns⟩ := h.drawOk
    rw [e, ← hcfg]
    refine ⟨hfields, hbuffers, herror, ?_, hhistory.record_ctrl (hseqPc.trans hpc) ?_, hturns⟩
    · unfold PathOk
      cases hseed : s.drawOk.2.cfg.par.seedOnReset <;> simp [hseed, codeInitSeedH, codePower]
    · cases s.drawOk.2.cfg.par.seedOnReset <;> decide
  · rw [e]
    exact h.retry hok

/-- A write of a time offset: INIT_SEED_* (rules R204 to R206) and L_WB_* (rules R215 to R217). -/
theorem Inv.rtcWriteThen (h : Inv s) (f : Field) (b : Byte) {onFail : State → State} (hpc : s.seqPc = code)
    (hf : follows code next = true)
    (hfail : onFail = State.retryAfterFail ∨ onFail = State.abandonAfterFail ∧ follows code codePower = true) :
    Inv (s.rtcWriteThen (s.cfg.par.rtcOff f) b next onFail) := by
  obtain ⟨hcfg, hseqPc⟩ := State.drawOk_cfg_seqPc s
  rcases State.rtcWriteThen_cases s (s.cfg.par.rtcOff f) b next onFail with ⟨-, e⟩ | ⟨hok, e⟩
  · rw [e, ← hcfg]
    have hrecord := h.drawOk.record (accessAllowed_rtcWrite _ f b)
      (beq_false_of_ne (Config.rtcOff_ne_ctrl s.drawOk.2.cfg f)) rfl
    exact hrecord.goto (by rwa [State.record_seqPc, hseqPc, hpc])
  · rw [e]
    rcases hfail with rfl | ⟨rfl, hpower⟩
    · exact h.retry hok
    · exact h.abandon hok hpc hpower

/-- L_LOAD_* (rules R211 to R213). -/
theorem Inv.rtcLoadThen (h : Inv s) (f : Field) (hpc : s.seqPc = code) (hf : follows code next = true)
    (hpower : follows code codePower = true) : Inv (s.rtcLoadThen f next) := by
  obtain ⟨hcfg, hseqPc⟩ := State.drawOk_cfg_seqPc s
  rcases State.rtcLoadThen_cases s f next with ⟨-, e⟩ | ⟨hok, e⟩
  · obtain ⟨rs, n, hbyte⟩ := State.drawByte_changes s.drawOk.2
    have hcfg' : s.drawOk.2.drawByte.2.cfg = s.cfg := by rw [hbyte]; exact hcfg
    have hseqPc' : s.drawOk.2.drawByte.2.seqPc = s.seqPc := by rw [hbyte]; exact hseqPc
    rw [e, ← hcfg']
    have hrecord := h.drawOk.drawByte.record (accessAllowed_rtcRead _ f s.drawOk.2.drawByte.1) rfl rfl
    exact (hrecord.setField f (toPlain_le _)).goto
      (by rwa [State.setField_seqPc, State.record_seqPc, hseqPc', hpc])
  · rw [e]
    exact h.abandon hok hpc hpower

/-- L_BLANK_TX and L_TX (rules R209, R222). -/
theorem Inv.packAndTransmit (h : Inv s) (sel : BufSel) (hpc : s.seqPc = code)
    (hpower : follows code codePower = true) : Inv (s.packAndTransmit sel) := by
  obtain ⟨hcfg, hseqPc⟩ := State.drawOk_cfg_seqPc s
  rw [State.packAndTransmit_eq]
  rcases State.transmitThenPower_cases s (packBytes (s.buf sel) s.cfg.par.n) with ⟨-, e⟩ | ⟨hok, e⟩
  · rw [e, ← hcfg]
    exact (h.drawOk.transmit (packBytes_length ..)).goto
      (by rwa [State.setLastTx_seqPc, State.record_seqPc, hseqPc, hpc])
  · rw [e]
    exact h.abandon hok hpc hpower

/-- L_MAP_* (rules R219 to R221). -/
theorem Inv.mapField (h : Inv s) (f : Field) (hpc : s.seqPc = code) (hf : follows code next = true) :
    Inv (s.mapField f next) := by
  obtain ⟨hlength, -⟩ := h.buffers
  rcases State.mapField_cases s f next with ⟨tens, ones, -, -, e⟩ | ⟨-, -, e⟩ <;> rw [e]
  · exact (h.setTubeBuf (by simpa using hlength)).goto (by rwa [State.setBuf_seqPc, hpc])
  · exact h.goto (by rwa [hpc])

/-- L_POWER (rule R207): the path that it chooses is the one of the snapshot that it takes. -/
theorem Inv.lPower (h : Inv s) (hpc : s.seqPc = codePower) :
    Inv (State.goto (if s.powerState = .off then codeBlank else codeProg) { s with pSnap := s.powerState }) := by
  have hctrl : s.seqPc ≠ codeInitCtrl := by rw [hpc]; decide
  refine ⟨h.fields, h.buffers, h.errorRecord, ?_, ?_, h.turns⟩
  · unfold PathOk
    cases hp : s.powerState <;> simp [codeBlank, codeProg]
  · refine HistoryOk.goto (s := { s with pSnap := s.powerState }) h.history hctrl ?_
    split <;> decide

/-- L_PROG (rule R210): the path that it chooses is the one of the snapshot that it takes. -/
theorem Inv.lProg (h : Inv s) (hpc : s.seqPc = codeProg) :
    Inv (State.goto (if s.progState = .notProg then codeLoadH else codeWb1) { s with qSnap := s.progState }) := by
  have hctrl : s.seqPc ≠ codeInitCtrl := by rw [hpc]; decide
  have hon : s.pSnap = .on := by
    obtain ⟨-, -, -, hon, -, -⟩ := h.path
    exact hon (by rw [hpc]; decide)
  refine ⟨h.fields, h.buffers, h.errorRecord, ?_, ?_, h.turns⟩
  · unfold PathOk
    cases hq : s.progState <;> simp [codeLoadH, codeWb1, hon]
  · refine HistoryOk.goto (s := { s with qSnap := s.progState }) h.history hctrl ?_
    split <;> decide

end

theorem Inv.exec_step {s t : State} {i : Instr} (h : Inv s) (hi : encode i = .stepCode s.seqPc)
    (hx : exec i s = .next t) : Inv t := by
  cases i with
  | initCtrl => cases hx; exact h.initCtrl (PortWord.stepCode.inj hi).symm
  | initSeedH => cases hx; exact h.rtcWriteThen .h _ (PortWord.stepCode.inj hi).symm (by decide) (.inl rfl)
  | initSeedM => cases hx; exact h.rtcWriteThen .m _ (PortWord.stepCode.inj hi).symm (by decide) (.inl rfl)
  | initSeedS => cases hx; exact h.rtcWriteThen .s _ (PortWord.stepCode.inj hi).symm (by decide) (.inl rfl)
  | lPower => cases hx; exact h.lPower (PortWord.stepCode.inj hi).symm
  | lProg => cases hx; exact h.lProg (PortWord.stepCode.inj hi).symm
  | lBlank | lClear =>
    cases hx
    refine (h.clearAll _).goto ?_
    rw [State.clearAll, State.setBuf_seqPc, ← PortWord.stepCode.inj hi]
    decide
  | lBlankTx | lTx => cases hx; exact h.packAndTransmit _ (PortWord.stepCode.inj hi).symm (by decide)
  | lLoadH | lLoadM | lLoadS =>
    cases hx; exact h.rtcLoadThen _ (PortWord.stepCode.inj hi).symm (by decide) (by decide)
  | lWb1 | lWb2 | lWb3 =>
    cases hx; exact h.rtcWriteThen _ _ (PortWord.stepCode.inj hi).symm (by decide) (.inr ⟨rfl, by decide⟩)
  | lMapH | lMapM | lMapS => cases hx; exact h.mapField _ (PortWord.stepCode.inj hi).symm (by decide)
  | _ => cases hi

theorem Inv.exec_event {s t : State} {i : Instr} (h : Inv s) (hi : i.isEvent = true) (hx : exec i s = .next t) :
    Inv t := by
  have hfields := h.fields.exec_event hi hx
  rw [exec_event_frame s i t hi hx]
  exact ⟨hfields, h.buffers, h.errorRecord, h.path, h.history, h.turns⟩

/-! ## The invariant, at reset and over every step -/

theorem inv_resetOf (c : Config) : Inv (State.resetOf c) where
  fields := by simp [FieldsBounded, State.resetOf]
  buffers := ⟨List.length_replicate, rfl⟩
  errorRecord := by simp [ErrorRecordOk, State.resetOf]
  path := by simp [PathOk, State.resetOf, codeInitCtrl]
  history := ⟨fun _ ha => absurd ha List.not_mem_nil, rfl, rfl⟩
  turns := fun _ ht => absurd ht List.not_mem_nil

/-- The reset input keeps the environment (log entry 15). -/
theorem Inv.applyReset {s : State} (h : Inv s) : Inv s.applyReset :=
  (inv_resetOf s.cfg).of_environment h.turns s.reads s.accessOks s.draws

/-- Settles O51. -/
theorem invariantHoldsAtReset : Obligations.InvariantHoldsAtReset :=
  ⟨inv_resetOf, inv_resetOf Config.hardware⟩

/-- Settles O52: along the cases of `step_cases`, with the sequencer's steps taken one by one, each at its own code in `seq_pc`. -/
theorem everyStepKeepsTheInvariant : Obligations.EveryStepKeepsTheInvariant := by
  intro s t h hstep
  obtain ⟨hblocks, -⟩ := State.nextTurn_ok s h.turns
  obtain ⟨ts, n, hturn⟩ := State.nextTurn_changes s
  rcases step_cases s with ⟨c, i, hdec, hs, hport⟩ | ⟨w, -, -, hs⟩ | ⟨-, hs⟩ | ⟨r, hs⟩ <;> rw [hs] at hstep
  · rcases hport with ⟨w, -, rfl⟩ | ⟨-, rfl⟩ | ⟨w, hmicro, -⟩
    · exact h.nextTurn.exec_event (isEvent_of_decodeEvent hdec) hstep
    · obtain ⟨-, hcode⟩ := isStep_and_encode_of_decodeStepCode hdec
      exact h.nextTurn.exec_step (by rw [hcode, hturn]) hstep
    · rw [hmicro] at hblocks
      cases hblocks
  · cases hstep
    exact h.nextTurn.raise (.inl rfl)
  · cases hstep
    exact h.nextTurn.applyReset
  · cases hstep

end Sys2Proof

/-! PROOFS. Who writes which element of the state: 10_state.md rules R21 to R30. -/

namespace Sys2Proof.Machine

section
variable (s : State)
@[simp] theorem State.actAdjustPlus_powerState : s.actAdjustPlus.powerState = s.powerState := by
  rw [State.actAdjustPlus_frame]
@[simp] theorem State.actAdjustPlus_progState : s.actAdjustPlus.progState = s.progState := by
  rw [State.actAdjustPlus_frame]
@[simp] theorem State.actAdjustMinus_powerState : s.actAdjustMinus.powerState = s.powerState := by
  rw [State.actAdjustMinus_frame]
@[simp] theorem State.actAdjustMinus_progState : s.actAdjustMinus.progState = s.progState := by
  rw [State.actAdjustMinus_frame]
@[simp] theorem State.actCycleMode_powerState : s.actCycleMode.powerState = s.powerState := by
  rw [State.actCycleMode_frame]
@[simp] theorem State.actCycleMode_hours : s.actCycleMode.hours = s.hours := by rw [State.actCycleMode_frame]
@[simp] theorem State.actCycleMode_minutes : s.actCycleMode.minutes = s.minutes := by rw [State.actCycleMode_frame]
@[simp] theorem State.actCycleMode_seconds : s.actCycleMode.seconds = s.seconds := by rw [State.actCycleMode_frame]
end

/-- A draw of an access's outcome writes the environment's list and the counter, and only where accesses can fail. -/
theorem State.drawOk_environment (s : State) : ∃ oks n, s.drawOk.2 = { s with accessOks := oks, draws := n }
    ∧ (oks ≠ s.accessOks ∨ n ≠ s.draws → s.cfg.par.collabCanFail = true) := by
  obtain ⟨oks, n, e, hnone⟩ := State.drawOk_spec s
  refine ⟨oks, n, e, fun hne => ?_⟩
  by_contra hcan
  obtain ⟨-, hoks, hdraws⟩ := hnone (Bool.eq_false_iff.2 hcan)
  rcases hne with hne | hne
  · exact hne hoks
  · exact hne hdraws

end Sys2Proof.Machine

namespace Sys2Proof

open Sys2Proof.Machine Sys2Proof.Claims

/-! ## The writers of each element -/

/-- Every element that differs in `t` is one that the spec lets `i` write. Each clause's default says that the element is the same
on its face; an instruction's proof gives the clauses of what it writes. -/
structure WritesAsListed (i : Instr) (s t : State) : Prop where
  powerState : t.powerState ≠ s.powerState → i = .pwrFall ∨ i = .pwrPc false := by exact fun h => absurd rfl h
  progState : t.progState ≠ s.progState → i = .modeFall ∨ ∃ plus minus, i = .grpPc plus minus false := by
    exact fun h => absurd rfl h
  hours : t.hours ≠ s.hours → Adjusts i ∨ i = .lLoadH := by exact fun h => absurd rfl h
  minutes : t.minutes ≠ s.minutes → Adjusts i ∨ i = .lLoadM := by exact fun h => absurd rfl h
  seconds : t.seconds ≠ s.seconds → Adjusts i ∨ i = .lLoadS := by exact fun h => absurd rfl h
  tubeBuf : t.tubeBuf ≠ s.tubeBuf → i = .lClear ∨ i = .lMapH ∨ i = .lMapM ∨ i = .lMapS ∨ i = .tbClearAll .tube
    ∨ ∃ p v, i = .tbSetDigit .tube p v := by exact fun h => absurd rfl h
  blankBuf : t.blankBuf ≠ s.blankBuf → i = .lBlank ∨ i = .tbClearAll .blank ∨ ∃ p v, i = .tbSetDigit .blank p v := by
    exact fun h => absurd rfl h
  lastTx : t.lastTx ≠ s.lastTx → i ∈ transmitSteps := by exact fun h => absurd rfl h
  seqPc : t.seqPc ≠ s.seqPc → i.isStep = true := by exact fun h => absurd rfl h
  pSnap : t.pSnap ≠ s.pSnap → i = .lPower := by exact fun h => absurd rfl h
  qSnap : t.qSnap ≠ s.qSnap → i = .lProg := by exact fun h => absurd rfl h
  packErr : t.errFlags.getLsbD 0 ≠ s.errFlags.getLsbD 0 → RaisesPackingError s.cfg.par.n i := by
    exact fun h => absurd rfl h
  illEv : t.errFlags.getLsbD 1 = s.errFlags.getLsbD 1 := by rfl
  collabFail : t.errFlags.getLsbD 2 ≠ s.errFlags.getLsbD 2 → MayFail s.cfg i := by exact fun h => absurd rfl h
  errCause : t.errCause ≠ s.errCause → RaisesPackingError s.cfg.par.n i ∨ MayFail s.cfg i := by
    exact fun h => absurd rfl h
  history : t.history ≠ s.history →
    (i ∈ readSteps ∧ ∃ off b, t.history = s.history ++ [.rtcRead off b])
      ∨ (i ∈ writeSteps ∧ ∃ off b, t.history = s.history ++ [.rtcWrite off b])
      ∨ (i ∈ transmitSteps ∧ t.history = s.history ++ [.transmit t.lastTx s.cfg.par.serialMsbFirst]) := by
    exact fun h => absurd rfl h
  portResult : t.portResult ≠ s.portResult → i.isMicroOp = true := by exact fun h => absurd rfl h
  reads : t.reads ≠ s.reads → i ∈ readSteps := by exact fun h => absurd rfl h
  accessOks : t.accessOks ≠ s.accessOks → MayFail s.cfg i := by exact fun h => absurd rfl h
  draws : t.draws ≠ s.draws → i ∈ readSteps ∨ MayFail s.cfg i := by exact fun h => absurd rfl h
  turns : t.turns = s.turns := by rfl
  cfg : t.cfg = s.cfg := by rfl

/-! ## Events -/

/-- The three levels of GRP_PC: the power state is not written, the programming state only at mode level 0, and a field only at
plus or minus level 0 (rule R163). -/
theorem exec_grpPc_writes {s t : State} {plus minus mode : Bool} (hx : exec (.grpPc plus minus mode) s = .next t) :
    t.powerState = s.powerState ∧ (mode = true → t.progState = s.progState)
      ∧ (plus = true → minus = true → t.hours = s.hours ∧ t.minutes = s.minutes ∧ t.seconds = s.seconds) := by
  cases hx
  refine ⟨?_, ?_, ?_⟩
  · simp [apply_ite State.powerState]
  · rintro rfl
    simp [apply_ite State.progState]
  · rintro rfl rfl
    cases mode <;> simp

theorem grpPc_writesAsListed {s t : State} {plus minus mode : Bool} (hx : exec (.grpPc plus minus mode) s = .next t) :
    WritesAsListed (.grpPc plus minus mode) s t := by
  obtain ⟨hpower, hprog, hfields⟩ := exec_grpPc_writes hx
  have hmode : t.progState ≠ s.progState → mode = false := by
    intro hne
    cases mode
    · rfl
    · exact absurd (hprog rfl) hne
  have hadjusts : ¬ (t.hours = s.hours ∧ t.minutes = s.minutes ∧ t.seconds = s.seconds) →
      Adjusts (.grpPc plus minus mode) := by
    intro hne
    refine .inr (.inr ⟨plus, minus, mode, rfl, ?_⟩)
    cases plus
    · exact .inl rfl
    · cases minus
      · exact .inr rfl
      · exact absurd (hfields rfl rfl) hne
  rw [exec_event_frame s _ t rfl hx]
  exact {
    powerState := fun hne => absurd hpower hne
    progState := fun hne => .inr ⟨plus, minus, by rw [hmode hne]⟩
    hours := fun hne => .inl (hadjusts fun ⟨hh, _, _⟩ => hne hh)
    minutes := fun hne => .inl (hadjusts fun ⟨_, hm, _⟩ => hne hm)
    seconds := fun hne => .inl (hadjusts fun ⟨_, _, hs⟩ => hne hs) }

theorem actAdjust_writesAsListed (s : State) :
    WritesAsListed .plusFall s s.actAdjustPlus ∧ WritesAsListed .minusFall s s.actAdjustMinus := by
  have hplus : Adjusts .plusFall := .inl rfl
  have hminus : Adjusts .minusFall := .inr (.inl rfl)
  constructor
  · rw [State.actAdjustPlus_frame]
    exact { hours := fun _ => .inl hplus, minutes := fun _ => .inl hplus, seconds := fun _ => .inl hplus }
  · rw [State.actAdjustMinus_frame]
    exact { hours := fun _ => .inl hminus, minutes := fun _ => .inl hminus, seconds := fun _ => .inl hminus }

/-! ## Micro-ops taken alone -/

theorem raise_packingError_writesAsListed {i : Instr} {s : State} {c : Cause} (r : PortResult)
    (hi : i.isMicroOp = true) (hraises : RaisesPackingError s.cfg.par.n i) (hc : c = .packCount ∨ c = .posRange) :
    WritesAsListed i s ((s.raise c).answer r) where
  packErr := fun _ => hraises
  illEv := errFlagsAfter_getLsbD_of_other (by rcases hc with rfl | rfl <;> rfl)
  collabFail := fun hne => absurd (errFlagsAfter_getLsbD_of_other (by rcases hc with rfl | rfl <;> rfl)) hne
  errCause := fun _ => .inl hraises
  portResult := fun _ => hi

theorem tbSetDigit_writesAsListed {s t : State} {sel : BufSel} {pos : BitVec 3} {val : Nibble}
    (hx : exec (.tbSetDigit sel pos val) s = .next t) : WritesAsListed (.tbSetDigit sel pos val) s t := by
  cases hx
  by_cases hpos : pos.toNat < 1 ∨ pos.toNat > s.cfg.par.n
  · rw [State.setDigit_out_of_range s sel _ val hpos]
    exact raise_packingError_writesAsListed _ rfl (.inl ⟨sel, pos, val, rfl, by omega⟩) (.inr rfl)
  · rw [State.setDigit_in_range s sel _ val (by omega)]
    cases sel
    · exact { tubeBuf := fun _ => by simp, portResult := fun _ => rfl }
    · exact { blankBuf := fun _ => by simp, portResult := fun _ => rfl }

theorem pack_writesAsListed {s t : State} {sel : BufSel} {count : BitVec 4}
    (hx : exec (.pack sel count) s = .next t) : WritesAsListed (.pack sel count) s t := by
  cases hx
  by_cases hcount : count.toNat > s.cfg.par.n
  · rw [State.packed, if_pos hcount]
    exact raise_packingError_writesAsListed _ rfl (.inr ⟨sel, count, rfl, hcount⟩) (.inl rfl)
  · rw [State.packed, if_neg hcount]
    exact { portResult := fun _ => rfl }

/-! ## Steps that access a collaborator -/

section
variable {i : Instr} {s : State}

theorem isStep_of_mem_accessSteps (hi : i ∈ accessSteps) : i.isStep = true := by
  have all : ∀ i ∈ accessSteps, i.isStep = true := by decide
  exact all i hi

/-- A failed access records COLLAB_FAIL and at most moves `seq_pc`, and happens only where accesses can fail (rule R202). -/
theorem failedAccess_writesAsListed {onFail : State → State} (hi : i ∈ accessSteps) (hok : s.drawOk.1 = false)
    (hfail : onFail = State.retryAfterFail ∨ onFail = State.abandonAfterFail) :
    WritesAsListed i s (onFail s.drawOk.2) := by
  have hmay : MayFail s.cfg i := ⟨State.drawOk_fails s hok, hi⟩
  obtain ⟨oks, n, e⟩ := State.drawOk_changes s
  rw [e]
  rcases hfail with rfl | rfl <;> exact {
    seqPc := fun _ => isStep_of_mem_accessSteps hi
    packErr := fun hne => absurd (errFlagsAfter_getLsbD_of_other rfl) hne
    illEv := errFlagsAfter_getLsbD_of_other rfl
    collabFail := fun _ => hmay
    errCause := fun _ => .inr hmay
    accessOks := fun _ => hmay
    draws := fun _ => .inr hmay }

theorem rtcWriteThen_writesAsListed {off b : Byte} {next : BitVec 5} {onFail : State → State} (hi : i ∈ writeSteps)
    (hfail : onFail = State.retryAfterFail ∨ onFail = State.abandonAfterFail) :
    WritesAsListed i s (s.rtcWriteThen off b next onFail) := by
  have haccess : i ∈ accessSteps := List.mem_append_left _ (List.mem_append_right _ hi)
  rcases State.rtcWriteThen_cases s off b next onFail with ⟨-, e⟩ | ⟨hok, e⟩
  · obtain ⟨oks, n, hdraw, hcan⟩ := State.drawOk_environment s
    rw [e, hdraw]
    exact {
      seqPc := fun _ => isStep_of_mem_accessSteps haccess
      history := fun _ => .inr (.inl ⟨hi, off, b, rfl⟩)
      accessOks := fun hne => ⟨hcan (.inl hne), haccess⟩
      draws := fun hne => .inr ⟨hcan (.inr hne), haccess⟩ }
  · rw [e]
    exact failedAccess_writesAsListed haccess hok hfail

theorem packAndTransmit_writesAsListed {sel : BufSel} (hi : i ∈ transmitSteps) :
    WritesAsListed i s (s.packAndTransmit sel) := by
  have haccess : i ∈ accessSteps := List.mem_append_right _ hi
  rw [State.packAndTransmit_eq]
  rcases State.transmitThenPower_cases s (packBytes (s.buf sel) s.cfg.par.n) with ⟨-, e⟩ | ⟨hok, e⟩
  · obtain ⟨oks, n, hdraw, hcan⟩ := State.drawOk_environment s
    rw [e, hdraw]
    exact {
      lastTx := fun _ => hi
      seqPc := fun _ => isStep_of_mem_accessSteps haccess
      history := fun _ => .inr (.inr ⟨hi, rfl⟩)
      accessOks := fun hne => ⟨hcan (.inl hne), haccess⟩
      draws := fun hne => .inr ⟨hcan (.inr hne), haccess⟩ }
  · rw [e]
    exact failedAccess_writesAsListed haccess hok (.inr rfl)

/-- The step that loads each field (rules R211 to R213). -/
def loadStep : Field → Instr
  | .h => .lLoadH
  | .m => .lLoadM
  | .s => .lLoadS

theorem loadStep_mem_readSteps (f : Field) : loadStep f ∈ readSteps := by
  cases f <;> decide

theorem rtcLoadThen_writesAsListed (f : Field) (next : BitVec 5) :
    WritesAsListed (loadStep f) s (s.rtcLoadThen f next) := by
  have hi := loadStep_mem_readSteps f
  have haccess : loadStep f ∈ accessSteps := List.mem_append_left _ (List.mem_append_left _ hi)
  have hstep := isStep_of_mem_accessSteps haccess
  rcases State.rtcLoadThen_cases s f next with ⟨-, e⟩ | ⟨hok, e⟩
  · obtain ⟨oks, n, hdraw, hcan⟩ := State.drawOk_environment s
    obtain ⟨rs, n', hbyte⟩ := State.drawByte_changes s.drawOk.2
    rw [e, hbyte, hdraw]
    generalize { s with accessOks := oks, draws := n }.drawByte.1 = b
    have unchangedButField : WritesAsListed (loadStep f) s
        (({ s with accessOks := oks, draws := n', reads := rs }.record (.rtcRead (s.cfg.par.rtcOff f) b)).goto next) := {
      seqPc := fun _ => hstep
      history := fun _ => .inl ⟨hi, _, _, rfl⟩
      reads := fun _ => hi
      accessOks := fun hne => ⟨hcan (.inl hne), haccess⟩
      draws := fun _ => .inl hi }
    cases f
    · exact { unchangedButField with hours := fun _ => .inr rfl }
    · exact { unchangedButField with minutes := fun _ => .inr rfl }
    · exact { unchangedButField with seconds := fun _ => .inr rfl }
  · rw [e]
    exact failedAccess_writesAsListed haccess hok (.inr rfl)

theorem mapField_writesAsListed {f : Field} {next : BitVec 5} (hi : i = .lMapH ∨ i = .lMapM ∨ i = .lMapS) :
    WritesAsListed i s (s.mapField f next) := by
  have hstep : i.isStep = true := by rcases hi with rfl | rfl | rfl <;> rfl
  rcases State.mapField_cases s f next with ⟨tens, ones, -, -, e⟩ | ⟨-, -, e⟩ <;> rw [e]
  · exact { tubeBuf := fun _ => .inr (by tauto), seqPc := fun _ => hstep }
  · exact { seqPc := fun _ => hstep }

end

/-! ## Every instruction -/

theorem exec_writesAsListed {i : Instr} {s t : State} (hx : exec i s = .next t) : WritesAsListed i s t := by
  cases i with
  | pwrPc level =>
    cases hx
    cases level
    · exact { powerState := fun _ => .inr rfl }
    · exact {}
  | grpPc => exact grpPc_writesAsListed hx
  | pwrFall => cases hx; exact { powerState := fun _ => .inl rfl }
  | modeFall => cases hx; rw [State.actCycleMode_frame]; exact { progState := fun _ => .inl rfl }
  | plusFall => cases hx; exact (actAdjust_writesAsListed s).1
  | minusFall => cases hx; exact (actAdjust_writesAsListed s).2
  | toPlain | toReg => cases hx; exact { portResult := fun _ => rfl }
  | tbSetDigit => exact tbSetDigit_writesAsListed hx
  | tbClearAll sel =>
    cases hx
    cases sel
    · exact { tubeBuf := fun _ => by simp, portResult := fun _ => rfl }
    · exact { blankBuf := fun _ => by simp, portResult := fun _ => rfl }
  | pack => exact pack_writesAsListed hx
  | initCtrl | initSeedH | initSeedM | initSeedS =>
    cases hx; exact rtcWriteThen_writesAsListed (by decide) (.inl rfl)
  | lWb1 | lWb2 | lWb3 => cases hx; exact rtcWriteThen_writesAsListed (by decide) (.inr rfl)
  | lPower => cases hx; exact { seqPc := fun _ => rfl, pSnap := fun _ => rfl }
  | lProg => cases hx; exact { seqPc := fun _ => rfl, qSnap := fun _ => rfl }
  | lBlank => cases hx; exact { blankBuf := fun _ => .inl rfl, seqPc := fun _ => rfl }
  | lClear => cases hx; exact { tubeBuf := fun _ => .inl rfl, seqPc := fun _ => rfl }
  | lBlankTx | lTx => cases hx; exact packAndTransmit_writesAsListed (by decide)
  | lLoadH => cases hx; exact rtcLoadThen_writesAsListed .h _
  | lLoadM => cases hx; exact rtcLoadThen_writesAsListed .m _
  | lLoadS => cases hx; exact rtcLoadThen_writesAsListed .s _
  | lMapH | lMapM | lMapS => cases hx; exact mapField_writesAsListed (by simp)

/-- Over a step ILL_EV differs only where the word was illegal, or at reset: no instruction writes it. -/
theorem step_illEv {s t : State} (hstep : step s = .next t)
    (hne : t.errFlags.getLsbD 1 ≠ s.errFlags.getLsbD 1) :
    s.nextTurn.1 = .reset ∨ ∃ w, s.nextTurn.1 = .event w ∧ eventWordLegal w = false := by
  obtain ⟨ts, n, hturn⟩ := State.nextTurn_changes s
  rcases step_cases s with ⟨c, i, -, hs, -⟩ | ⟨w, hw, hdec, -⟩ | ⟨hreset, -⟩ | ⟨r, hs⟩
  · rw [hs] at hstep
    have hsame := (exec_writesAsListed hstep).illEv
    rw [hturn] at hsame
    exact absurd hsame hne
  · exact .inr ⟨w, hw, decodeEvent_illegal w hdec⟩
  · exact .inl hreset
  · rw [hs] at hstep
    cases hstep

/-- Settles O41: instruction by instruction, with the shared operations' writers said once. -/
theorem onlyTheListedWritersWrite : Obligations.OnlyTheListedWritersWrite := by
  refine ⟨fun i s t hx => ?_, fun s t => step_illEv⟩
  have h := exec_writesAsListed hx
  exact ⟨h.powerState, h.progState, h.hours, h.minutes, h.seconds, h.tubeBuf, h.blankBuf, h.lastTx, h.seqPc, h.pSnap,
    h.qSnap, h.packErr, h.illEv, h.collabFail, h.errCause, h.history, h.portResult, h.reads, h.accessOks, h.draws,
    h.turns, h.cfg⟩

end Sys2Proof

/-! PROOFS. What the sequencer does not read, what the ports show and what reset leaves: 10_state.md rules R29, R31 and R33. -/

namespace Sys2Proof.Machine

/-! ## The sequencer under other power and programming states -/

/-- The state with other values of `power_state` and `prog_state`. -/
def State.withModes (p : PowerState) (q : ProgState) (s : State) : State := { s with powerState := p, progState := q }

section
variable (s : State) (p : PowerState) (q : ProgState)

theorem State.drawOk_withModes : (s.withModes p q).drawOk = (s.drawOk.1, s.drawOk.2.withModes p q) := by
  cases hcan : s.cfg.par.collabCanFail with
  | false =>
    rw [State.drawOk_cannot_fail s hcan]
    exact State.drawOk_cannot_fail (s.withModes p q) hcan
  | true => cases hoks : s.accessOks <;> simp [State.drawOk, State.withModes, hcan, hoks]

theorem State.drawByte_withModes : (s.withModes p q).drawByte = (s.drawByte.1, s.drawByte.2.withModes p q) := by
  cases hreads : s.reads <;> simp [State.drawByte, State.withModes, hreads]

theorem State.setBuf_withModes (sel : BufSel) (b : List Nibble) :
    (s.withModes p q).setBuf sel b = (s.setBuf sel b).withModes p q := by
  cases sel <;> rfl

theorem State.buf_withModes (sel : BufSel) : (s.withModes p q).buf sel = s.buf sel := by
  cases sel <;> rfl

theorem State.field_withModes (f : Field) : (s.withModes p q).field f = s.field f := by
  cases f <;> rfl

theorem State.clearAll_withModes (sel : BufSel) :
    (s.withModes p q).clearAll sel = (s.clearAll sel).withModes p q :=
  State.setBuf_withModes s p q sel _

theorem State.rtcWriteThen_withModes (off b : Byte) (code : BitVec 5) {onFail : State → State}
    (hfail : ∀ u : State, onFail (u.withModes p q) = (onFail u).withModes p q) :
    (s.withModes p q).rtcWriteThen off b code onFail = (s.rtcWriteThen off b code onFail).withModes p q := by
  unfold State.rtcWriteThen
  simp only [State.drawOk_withModes]
  split
  · rfl
  · exact hfail _

theorem State.rtcLoadThen_withModes (f : Field) (code : BitVec 5) :
    (s.withModes p q).rtcLoadThen f code = (s.rtcLoadThen f code).withModes p q := by
  unfold State.rtcLoadThen
  simp only [State.drawOk_withModes, State.drawByte_withModes]
  split
  · cases f <;> rfl
  · rfl

theorem State.packAndTransmit_withModes (sel : BufSel) :
    (s.withModes p q).packAndTransmit sel = (s.packAndTransmit sel).withModes p q := by
  rw [State.packAndTransmit_eq, State.packAndTransmit_eq, State.buf_withModes]
  unfold State.transmitThenPower
  simp only [State.drawOk_withModes]
  split <;> rfl

theorem State.writeBack_withModes (f : Field) (code : BitVec 5) :
    (s.withModes p q).writeBack f code = (s.writeBack f code).withModes p q := by
  unfold State.writeBack
  rw [State.field_withModes]
  exact State.rtcWriteThen_withModes s p q _ _ code fun _ => rfl

/-- L_MAP_f of a field that TUBE_MAP holds (rule R219). -/
theorem State.mapField_mapped {f : Field} {tens ones : Nat} (code : BitVec 5)
    (ht : s.cfg.par.tubeMap.at f .tens = some tens) (ho : s.cfg.par.tubeMap.at f .ones = some ones) :
    s.mapField f code = (s.setBuf .tube ((s.tubeBuf.set (tens - 1) (tensDigit (s.field f))).set (ones - 1)
      (onesDigit (s.field f)))).goto code := by
  simp only [State.mapField, ht, ho]
  exact State.placeDigits_in_range s tens ones _ code (Config.position_range s.cfg f _ _ ht)
    (Config.position_range s.cfg f _ _ ho)

/-- L_MAP_f of a field that TUBE_MAP does not hold (rule R219). -/
theorem State.mapField_unmapped {f : Field} (code : BitVec 5) (ht : s.cfg.par.tubeMap.at f .tens = none) :
    s.mapField f code = s.goto code := by
  simp only [State.mapField, ht]

theorem State.mapField_withModes (f : Field) (code : BitVec 5) :
    (s.withModes p q).mapField f code = (s.mapField f code).withModes p q := by
  rcases State.mapField_cases s f code with ⟨tens, ones, ht, ho, -⟩ | ⟨ht, -, -⟩
  · rw [State.mapField_mapped s code ht ho, State.mapField_mapped (s.withModes p q) code ht ho,
      State.field_withModes]
    rfl
  · rw [State.mapField_unmapped s code ht, State.mapField_unmapped (s.withModes p q) code ht]
    rfl

/-- Of the steps of the sequencer only L_POWER and L_PROG read `power_state` or `prog_state` (rule R29). -/
theorem exec_step_withModes {i : Instr} {t : State} (hi : i.isStep = true) (hpower : i ≠ .lPower)
    (hprog : i ≠ .lProg) (hx : exec i s = .next t) : exec i (s.withModes p q) = .next (t.withModes p q) := by
  cases i with
  | initCtrl | initSeedH | initSeedM | initSeedS =>
    cases hx
    exact congrArg _ (State.rtcWriteThen_withModes s p q _ _ _ (onFail := State.retryAfterFail) fun _ => rfl)
  | lWb1 | lWb2 | lWb3 => cases hx; exact congrArg _ (State.writeBack_withModes s p q _ _)
  | lPower => exact absurd rfl hpower
  | lProg => exact absurd rfl hprog
  | lBlank | lClear => cases hx; exact congrArg _ (congrArg _ (State.clearAll_withModes s p q _))
  | lBlankTx | lTx => cases hx; exact congrArg _ (State.packAndTransmit_withModes s p q _)
  | lLoadH | lLoadM | lLoadS => cases hx; exact congrArg _ (State.rtcLoadThen_withModes s p q _ _)
  | lMapH | lMapM | lMapS => cases hx; exact congrArg _ (State.mapField_withModes s p q _ _)
  | _ => simp [Instr.isStep, Instr.isEvent, Instr.isMicroOp] at hi

end

end Sys2Proof.Machine

namespace Sys2Proof

open Sys2Proof.Machine Sys2Proof.Claims

/-- A step of the sequencer writes neither of the two. -/
theorem exec_step_keeps_modes {i : Instr} {s t : State} (hi : i.isStep = true) (hx : exec i s = .next t) :
    t.powerState = s.powerState ∧ t.progState = s.progState := by
  have h := exec_writesAsListed hx
  constructor
  · by_contra hne
    rcases h.powerState hne with rfl | rfl <;> cases hi
  · by_contra hne
    rcases h.progState hne with rfl | ⟨_, _, rfl⟩ <;> cases hi

/-- Settles O45. The two steps that read one of the two states do not read the other. -/
theorem snapshotsFixThePath : Obligations.SnapshotsFixThePath := by
  intro i s t hi hx
  obtain ⟨hpowerSame, hprogSame⟩ := exec_step_keeps_modes hi hx
  constructor
  · intro hpower p
    by_cases hprog : i = .lProg
    · subst hprog
      cases hx
      rfl
    · refine (exec_step_withModes s p s.progState hi hpower hprog hx).trans ?_
      rw [← hprogSame]
      rfl
  · intro hprog q
    by_cases hpower : i = .lPower
    · subst hpower
      cases hx
      rfl
    · refine (exec_step_withModes s s.powerState q hi hpower hprog hx).trans ?_
      rw [← hpowerSame]
      rfl

/-! ## The observation ports -/

/-- Settles O47. -/
theorem statusPortShowsTheState : Obligations.StatusPortShowsTheState := by
  intro s
  unfold State.statusPort
  have bits : ∀ (flags : BitVec 3) (prog : BitVec 2) (power : BitVec 1),
      let port := 0#2 ++ flags ++ prog ++ power
      port.getLsbD 0 = power.getLsbD 0 ∧ port.extractLsb' 1 2 = prog ∧ port.getLsbD 3 = flags.getLsbD 0
        ∧ port.getLsbD 4 = flags.getLsbD 1 ∧ port.getLsbD 5 = flags.getLsbD 2 ∧ port.extractLsb' 6 2 = 0#2 := by decide
  obtain ⟨h0, hprog, h3, h4, h5, h6⟩ := bits s.errFlags (progBits s.progState) (powerBit s.powerState)
  refine ⟨?_, hprog, h3, h4, h5, h6, rfl⟩
  rw [h0]
  cases s.powerState <;> decide

/-! ## Reset -/

/-- The reset input leaves the state after reset, but for the environment's fields. -/
theorem step_reset {s : State} {rest : List Turn} (h : s.turns = .reset :: rest) :
    step s = .next { State.resetOf s.cfg with
      turns := rest, reads := s.reads, accessOks := s.accessOks, draws := s.draws } := by
  simp only [step, State.nextTurn_cons s .reset rest h, State.applyReset]

/-- Settles O50. -/
theorem resetValues : Obligations.ResetValues := by
  refine ⟨fun _ => rfl, rfl, ?_⟩
  rintro s r rest (rfl | ⟨hturns, hstep⟩)
  · exact ⟨rfl, rfl, rfl, rfl, rfl, rfl, rfl, rfl, rfl, rfl, rfl, rfl, rfl, rfl, rfl⟩
  · rw [step_reset hturns] at hstep
    cases hstep
    exact ⟨rfl, rfl, rfl, rfl, rfl, rfl, rfl, rfl, rfl, rfl, rfl, rfl, rfl, rfl, rfl⟩

end Sys2Proof

/-! PROOFS. The order of turns and the access history: 20_memory.md rules R56, R57 and R60. -/

namespace Sys2Proof.Machine

/-- Where the state fixes no turn, the free events come, each as a turn of E, and then a step of S (rule R60). -/
theorem State.nextTurn_free {s : State} (h : s.turns = []) :
    s.nextTurn.1 :: s.nextTurn.2.turns = (Config.freeEvents s.draws).map Turn.event ++ [Turn.sequencer] := by
  unfold State.nextTurn
  rw [h]
  cases Config.freeEvents s.draws with
  | nil => rfl
  | cons w ws => rfl

end Sys2Proof.Machine

namespace Sys2Proof

open Sys2Proof.Machine Sys2Proof.Claims

/-- Settles O6. The list of events is what the free draw answers. -/
theorem eventsStandBetweenSequencerSteps : Obligations.EventsStandBetweenSequencerSteps := by
  refine fun s => ⟨State.nextTurn_cons s, fun h => ⟨_, State.nextTurn_free h⟩, ?_⟩
  obtain ⟨ts, n, e⟩ := State.nextTurn_changes s
  rw [e]

/-! ## The history over one instruction -/

/-- The history is the same, or longer at its end by one access that the configuration of `s` allows. -/
def HistoryExtended (s t : State) : Prop :=
  t.history = s.history ∨ ∃ a, t.history = s.history ++ [a] ∧ accessAllowed s.cfg.par a

section
variable (s : State)

/-- A failed access is not in the history (log entry 8). -/
theorem historyExtended_failedAccess {onFail : State → State}
    (hfail : onFail = State.retryAfterFail ∨ onFail = State.abandonAfterFail) :
    HistoryExtended s (onFail s.drawOk.2) := by
  obtain ⟨oks, n, e⟩ := State.drawOk_changes s
  rw [e]
  rcases hfail with rfl | rfl <;> exact .inl rfl

theorem historyExtended_rtcWriteThen {off b : Byte} (next : BitVec 5) {onFail : State → State}
    (hallowed : accessAllowed s.cfg.par (.rtcWrite off b))
    (hfail : onFail = State.retryAfterFail ∨ onFail = State.abandonAfterFail) :
    HistoryExtended s (s.rtcWriteThen off b next onFail) := by
  rcases State.rtcWriteThen_cases s off b next onFail with ⟨-, e⟩ | ⟨-, e⟩ <;> rw [e]
  · obtain ⟨oks, n, hdraw⟩ := State.drawOk_changes s
    rw [hdraw]
    exact .inr ⟨_, rfl, hallowed⟩
  · exact historyExtended_failedAccess s hfail

theorem historyExtended_rtcLoadThen (f : Field) (next : BitVec 5) : HistoryExtended s (s.rtcLoadThen f next) := by
  rcases State.rtcLoadThen_cases s f next with ⟨-, e⟩ | ⟨-, e⟩ <;> rw [e]
  · obtain ⟨oks, n, hdraw⟩ := State.drawOk_changes s
    obtain ⟨rs, n', hbyte⟩ := State.drawByte_changes s.drawOk.2
    have hsame : s.drawOk.2.drawByte.2.history = s.history := by rw [hbyte, hdraw]
    refine .inr ⟨_, ?_, accessAllowed_rtcRead s.cfg.par f s.drawOk.2.drawByte.1⟩
    rw [State.goto_history, State.setField_history, State.record_history, hsame]
  · exact historyExtended_failedAccess s (.inr rfl)

/-- The bytes are those of a whole buffer, `ceil(N/2)` (rule R103). -/
theorem historyExtended_packAndTransmit (sel : BufSel) : HistoryExtended s (s.packAndTransmit sel) := by
  rw [State.packAndTransmit_eq]
  rcases State.transmitThenPower_cases s (packBytes (s.buf sel) s.cfg.par.n) with ⟨-, e⟩ | ⟨-, e⟩ <;> rw [e]
  · obtain ⟨oks, n, hdraw⟩ := State.drawOk_changes s
    rw [hdraw]
    exact .inr ⟨_, rfl, packBytes_length .., rfl⟩
  · exact historyExtended_failedAccess s (.inr rfl)

end

/-- Only the steps that access a collaborator write the history; of these each makes one access. -/
theorem exec_historyExtended {i : Instr} {s t : State} (hx : exec i s = .next t) : HistoryExtended s t := by
  by_cases haccess : i ∈ accessSteps
  · cases i with
    | initCtrl => cases hx; exact historyExtended_rtcWriteThen s _ (.inl ⟨rfl, rfl⟩) (.inl rfl)
    | initSeedH => cases hx; exact historyExtended_rtcWriteThen s _ (accessAllowed_rtcWrite s.cfg.par .h _) (.inl rfl)
    | initSeedM => cases hx; exact historyExtended_rtcWriteThen s _ (accessAllowed_rtcWrite s.cfg.par .m _) (.inl rfl)
    | initSeedS => cases hx; exact historyExtended_rtcWriteThen s _ (accessAllowed_rtcWrite s.cfg.par .s _) (.inl rfl)
    | lWb1 | lWb2 | lWb3 =>
      cases hx; exact historyExtended_rtcWriteThen s _ (accessAllowed_rtcWrite s.cfg.par _ _) (.inr rfl)
    | lLoadH | lLoadM | lLoadS => cases hx; exact historyExtended_rtcLoadThen s _ _
    | lBlankTx | lTx => cases hx; exact historyExtended_packAndTransmit s _
    | _ => simp [accessSteps, readSteps, writeSteps, transmitSteps] at haccess
  · left
    by_contra hne
    simp only [accessSteps, List.mem_append, not_or] at haccess
    obtain ⟨⟨hread, hwrite⟩, htransmit⟩ := haccess
    rcases (exec_writesAsListed hx).history hne with ⟨hi, -⟩ | ⟨hi, -⟩ | ⟨hi, -⟩
    · exact hread hi
    · exact hwrite hi
    · exact htransmit hi

/-- Settles O43: along the cases of `step_cases`; taking the turn leaves the history and the configuration alone. -/
theorem historyGrowsByAllowedAccesses : Obligations.HistoryGrowsByAllowedAccesses := by
  intro s t hstep
  obtain ⟨ts, n, hturn⟩ := State.nextTurn_changes s
  rcases step_cases s with ⟨c, i, -, hs, -⟩ | ⟨w, -, -, hs⟩ | ⟨hreset, hs⟩ | ⟨r, hs⟩ <;> rw [hs] at hstep
  · have hextended := exec_historyExtended hstep
    rw [hturn] at hextended
    exact .inr hextended
  · rw [hturn] at hstep
    cases hstep
    exact .inr (.inl rfl)
  · cases hstep
    exact .inl ⟨hreset, rfl⟩
  · cases hstep

end Sys2Proof

/-! PROOFS. The encoded forms: 30_encoding.md. First the fields of a micro-op word, then what the decoder answers to any word of
any port, and from that the round trips, the legal words and the refusals. -/

namespace Sys2Proof

/-! ## The fields of a micro-op word (rules R74 and R75) -/

section
open BitVec

/-- Each field reads what the word was put together from. -/
theorem microFields_append (u p : BitVec 4) (o : BitVec 8) :
    microUnit (u ++ p ++ o) = u ∧ microOp (u ++ p ++ o) = p ∧ microOperand (u ++ p ++ o) = o := by
  refine ⟨?_, ?_, ?_⟩
  · exact (extractLsb'_append_eq_of_le (xhi := u ++ p) (by decide)).trans
      ((extractLsb'_append_eq_of_le (by decide)).trans extractLsb'_eq_self)
  · exact (extractLsb'_append_eq_of_le (xhi := u ++ p) (by decide)).trans
      ((extractLsb'_append_eq_of_add_le (by decide)).trans extractLsb'_eq_self)
  · exact (extractLsb'_append_eq_of_add_le (xhi := u ++ p) (by decide)).trans extractLsb'_eq_self

/-- The three fields are the whole word. -/
theorem microOpWord_fields (w : BitVec 16) :
    microOpWord (microUnit w) (microOp w) (microOperand w) = .microOp w := by
  have high : microUnit w ++ microOp w = w.extractLsb' 8 8 := extractLsb'_append_extractLsb'_eq_extractLsb' rfl
  have whole : w.extractLsb' 8 8 ++ microOperand w = w := extractLsb'_append_extractLsb' (w := 8) (len := 8)
  rw [microOpWord, high, whole]

end

theorem microUnit_toNat (w : BitVec 16) : (microUnit w).toNat = w.toNat / 4096 := by
  simp only [microUnit, BitVec.extractLsb'_toNat, Nat.shiftRight_eq_div_pow]
  omega

theorem microOp_toNat (w : BitVec 16) : (microOp w).toNat = w.toNat / 256 % 16 := by
  simp [microOp, Nat.shiftRight_eq_div_pow]

theorem microOperand_toNat (w : BitVec 16) : (microOperand w).toNat = w.toNat % 256 := by
  simp [microOperand]

/-- A word whose unit and operation are known. -/
theorem microOp_eq_microOpWord {w : BitVec 16} (u p : BitVec 4) (hu : (microUnit w).toNat = u.toNat)
    (hp : (microOp w).toNat = p.toNat) : PortWord.microOp w = microOpWord u p (microOperand w) := by
  rw [← BitVec.eq_of_toNat_eq hu, ← BitVec.eq_of_toNat_eq hp, microOpWord_fields]

/-- Rule R76 over the fields that rule R74 names. -/
theorem microOpWordLegal_fields (w : BitVec 16) :
    microOpWordLegal w = true ↔
      (microUnit w).toNat = 1 ∧ ((microOp w).toNat = 0 ∨ (microOp w).toNat = 1)
        ∨ (microUnit w).toNat = 2 ∧ (microOp w).toNat = 0
        ∨ (microUnit w).toNat = 2 ∧ (microOp w).toNat = 1 ∧ (microOperand w).toNat % 128 = 0
        ∨ (microUnit w).toNat = 3 ∧ (microOp w).toNat = 0 ∧ (microOperand w).toNat / 16 % 8 = 0 := by
  simp [microOpWordLegal, microUnit_toNat, microOp_toNat, microOperand_toNat, or_assoc, and_assoc]

/-! ## The fields of an operand (rule R75) -/

theorem operandFields_append (sel : BufSel) (pos : BitVec 3) (val : BitVec 4) :
    operandSel (selBit sel ++ pos ++ val) = sel ∧ (selBit sel ++ pos ++ val).extractLsb' 4 3 = pos
      ∧ (selBit sel ++ pos ++ val).extractLsb' 0 4 = val := by
  cases sel <;> revert pos val <;> decide

/-- The three fields are the whole operand. -/
theorem operand_fields :
    ∀ o : BitVec 8, selBit (operandSel o) ++ o.extractLsb' 4 3 ++ o.extractLsb' 0 4 = o := by decide

/-- TB_CLEAR_ALL's reserved bits, U[6:0]. -/
theorem operand_low7_eq_zero : ∀ o : BitVec 8, o.extractLsb' 0 7 = 0#7 ↔ o.toNat % 128 = 0 := by decide

theorem operand_of_low7_eq_zero : ∀ o : BitVec 8, o.extractLsb' 0 7 = 0#7 → selBit (operandSel o) ++ 0#7 = o := by decide

/-- PACK's reserved bits, U[6:4]. -/
theorem operand_mid3_eq_zero : ∀ o : BitVec 8, o.extractLsb' 4 3 = 0#3 ↔ o.toNat / 16 % 8 = 0 := by decide

/-! ## What the decoder answers -/

/-- The name under which a port rejects a word (rules R73, R76 and R78). -/
def PortWord.rejection : PortWord → Reject
  | .event w => .illegalEvent w
  | .microOp w => .reservedMicroOp w
  | .stepCode c => .reservedStepCode c

/-- What a decoder may answer to `c`: if `c` is legal, an instruction whose word is `c`, and else the rejection of `c`. -/
def PortWord.rightAnswer (c : PortWord) : Except Reject Instr → Bool
  | .ok i => c.legal && decide (encode i = c)
  | .error r => !c.legal && decide (r = c.rejection)

/-- The 256 event words, each decided. -/
theorem decodeEvent_right : ∀ w : BitVec 8, (PortWord.event w).rightAnswer (decodeEvent w) = true := by decide

/-- The 32 step codes, each decided. -/
theorem decodeStepCode_right : ∀ k : BitVec 5, (PortWord.stepCode k).rightAnswer (decodeStepCode k) = true := by decide

/-- Along the rows of the decoder: each row's conditions are one disjunct of rule R76, and its fields are the whole word again. -/
theorem decodeMicroOp_right (w : BitVec 16) : (PortWord.microOp w).rightAnswer (decodeMicroOp w) = true := by
  have ok {i : Instr} (legal : microOpWordLegal w = true) (word : encode i = .microOp w) :
      (PortWord.microOp w).rightAnswer (.ok i) = true := by
    simp [PortWord.rightAnswer, PortWord.legal, legal, word]
  have reserved (illegal : ¬ microOpWordLegal w = true) :
      (PortWord.microOp w).rightAnswer (.error (.reservedMicroOp w)) = true := by
    simpa [PortWord.rightAnswer, PortWord.legal, PortWord.rejection] using illegal
  rw [microOpWordLegal_fields] at ok reserved
  unfold decodeMicroOp
  simp only
  split
  next hu hp => exact ok (by omega) (microOp_eq_microOpWord 1#4 0#4 hu hp).symm
  next hu hp => exact ok (by omega) (microOp_eq_microOpWord 1#4 1#4 hu hp).symm
  next hu hp =>
    refine ok (by omega) ?_
    rw [microOp_eq_microOpWord 2#4 0#4 hu hp, encode, operand_fields]
  next hu hp =>
    split
    next hz =>
      have hlow := (operand_low7_eq_zero _).1 hz
      refine ok (by omega) ?_
      rw [microOp_eq_microOpWord 2#4 1#4 hu hp, encode, operand_of_low7_eq_zero _ hz]
    next hz =>
      have hlow := mt (operand_low7_eq_zero _).2 hz
      exact reserved (by omega)
  next hu hp =>
    split
    next hz =>
      have hmid := (operand_mid3_eq_zero _).1 hz
      refine ok (by omega) ?_
      rw [microOp_eq_microOpWord 3#4 0#4 hu hp, encode, ← hz, operand_fields]
    next hz =>
      have hmid := mt (operand_mid3_eq_zero _).2 hz
      exact reserved (by omega)
  next h10 h11 h20 h21 h30 =>
    simp only [imp_false] at h10 h11 h20 h21 h30
    exact reserved (by omega)

theorem decode_right (c : PortWord) : c.rightAnswer (decode c) = true := by
  cases c with
  | event w => exact decodeEvent_right w
  | microOp w => exact decodeMicroOp_right w
  | stepCode k => exact decodeStepCode_right k

theorem legal_and_encode_of_decode {c : PortWord} {i : Instr} (h : decode c = .ok i) :
    c.legal = true ∧ encode i = c := by
  simpa [h, PortWord.rightAnswer] using decode_right c

theorem illegal_and_rejection_of_decode {c : PortWord} {r : Reject} (h : decode c = .error r) :
    c.legal = false ∧ r = c.rejection := by
  simpa [h, PortWord.rightAnswer] using decode_right c

theorem decode_ok_iff_legal (c : PortWord) : (∃ i, decode c = .ok i) ↔ c.legal = true := by
  cases h : decode c with
  | ok i => simp [legal_and_encode_of_decode h]
  | error r => simp [illegal_and_rejection_of_decode h]

theorem decode_of_illegal {c : PortWord} (hc : c.legal = false) : decode c = .error c.rejection := by
  cases h : decode c with
  | ok i => simp [legal_and_encode_of_decode h] at hc
  | error r => rw [(illegal_and_rejection_of_decode h).2]

theorem isMicroOp_of_encode {i : Instr} {w : BitVec 16} (h : encode i = .microOp w) : i.isMicroOp = true := by
  cases i with
  | toPlain | toReg | tbSetDigit | tbClearAll | pack => rfl
  | _ => cases h

/-! ## Decoding what the encoder wrote -/

/-- Settles O1. An event's or a step's word is computed; a micro-op's word is taken apart into the fields that it was put
together from, at every operand. -/
theorem decodeOfEncodeIsTheInstruction : Obligations.DecodeOfEncodeIsTheInstruction := by
  intro i
  cases i with
  | pwrPc level => cases level <;> rfl
  | grpPc plus minus mode => revert plus minus mode; decide
  | toPlain | toReg | tbSetDigit | pack =>
    simp only [encode, microOpWord, decode, decodeMicroOp, microFields_append, operandFields_append]
    rfl
  | tbClearAll sel => cases sel <;> rfl
  | _ => rfl

/-- Settles O2: an accepted answer to a word is an instruction with this word (`decode_right`). -/
theorem encodeOfDecodeIsTheWord : Obligations.EncodeOfDecodeIsTheWord :=
  fun _ _ h => (legal_and_encode_of_decode h).2

/-- Settles O3. The answer to a word is an instruction of its port if the word is legal, and else the port's own rejection. -/
theorem legalWordsDecodeAndNoOthers : Obligations.LegalWordsDecodeAndNoOthers := by
  refine fun c => ⟨decode_ok_iff_legal c, fun i h => ?_, fun h => ?_⟩
  · cases c with
    | event w => exact Machine.isEvent_of_decodeEvent h
    | microOp w => exact isMicroOp_of_encode (legal_and_encode_of_decode h).2
    | stepCode k => exact (Machine.isStep_and_encode_of_decodeStepCode h).1
  · cases c with
    | event | microOp | stepCode => exact decode_of_illegal h

/-- Settles O4: the thirteen closed words are evaluated. -/
theorem wordsDecodeAsTheTablesSay : Obligations.WordsDecodeAsTheTablesSay := by
  unfold Obligations.WordsDecodeAsTheTablesSay
  decide

/-! ## A step at a word that does not decode -/

theorem Machine.runWord_of_illegal {c : PortWord} (hc : c.legal = false) (s : Machine.State) :
    Machine.runWord c s = Machine.reject c.rejection s := by
  simp only [Machine.runWord, decode_of_illegal hc]

/-- Settles O8: the word of the fixed turn is illegal on its port, so it is rejected (`runWord_of_illegal`). -/
theorem reservedWordsAreRefused : Obligations.ReservedWordsAreRefused := by
  constructor
  · intro s w rest hturns hw
    simp only [Machine.step, Machine.State.nextTurn_cons s _ rest hturns]
    exact Machine.runWord_of_illegal (c := .microOp w) hw _
  · intro s rest hturns hcode
    have hc : (PortWord.stepCode s.seqPc).legal = false := decide_eq_false (by omega)
    simp only [Machine.step, Machine.State.nextTurn_cons s _ rest hturns]
    exact Machine.runWord_of_illegal hc _

end Sys2Proof

/-! PROOFS. The digit packer: 40_digit_packer.md. First the bytes of PACK, then what the instruction answers and records. -/

namespace Sys2Proof.Machine

/-! ## The bytes of PACK (rule R102) -/

section
variable {buf : List Nibble} {count j k : Nat}

/-- A single element leaves the high nibble of its byte 0. -/
theorem packBytes_single (h : 2 * j < buf.length) :
    packBytes buf (2 * j + 1) = packBytes buf (2 * j) ++ [0#4 ++ buf[2 * j]] := by
  have low : ∀ e : Nibble, (e.setWidth 8 : Byte) = 0#4 ++ e := by decide
  rw [packBytes_succ_even buf j h, low]

/-- Two elements make one whole byte: the OR meets the 0 of the high nibble. -/
theorem packBytes_pair (h : 2 * j + 1 < buf.length) :
    packBytes buf (2 * j + 2) = packBytes buf (2 * j) ++ [buf[2 * j + 1] ++ buf[2 * j]] := by
  have merge : ∀ lo hi : Nibble, 0#4 ++ lo ||| (hi.setWidth 8 : Byte) <<< 4 = hi ++ lo := by decide
  have last : (packBytes buf (2 * j)).length = j := by rw [packBytes_length]; omega
  rw [packBytes_succ_odd buf j h, packBytes_single (by omega)]
  simp [last, merge]

/-- A whole byte is not written again. -/
theorem packBytes_succ_getElem? (hk : 2 * k + 1 < count) (h : count < buf.length) :
    (packBytes buf (count + 1))[k]? = (packBytes buf count)[k]? := by
  obtain ⟨j, rfl | rfl⟩ : ∃ j, count = 2 * j ∨ count = 2 * j + 1 := ⟨count / 2, by omega⟩
  · rw [packBytes_single h, List.getElem?_append_left (by rw [packBytes_length]; omega)]
  · rw [packBytes_succ_odd buf j h, List.getElem?_set_ne (by omega)]

/-- Byte `k`, where both of its elements are packed. -/
theorem packBytes_getElem?_pair (hk : 2 * k + 2 ≤ count) (h : count ≤ buf.length) :
    (packBytes buf count)[k]? = some (buf[2 * k + 1] ++ buf[2 * k]) := by
  induction count, hk using Nat.le_induction with
  | base =>
    have last : (packBytes buf (2 * k)).length = k := by rw [packBytes_length]; omega
    rw [packBytes_pair h, List.getElem?_append_right (by omega)]
    simp [last]
  | succ count hk ih => rw [packBytes_succ_getElem? hk h, ih (by omega)]

/-- Byte `k`, where the count ends after its first element. -/
theorem packBytes_getElem?_single (h : 2 * k < buf.length) :
    (packBytes buf (2 * k + 1))[k]? = some (0#4 ++ buf[2 * k]) := by
  have last : (packBytes buf (2 * k)).length = k := by rw [packBytes_length]; omega
  rw [packBytes_single h, List.getElem?_append_right (by omega)]
  simp [last]

end

/-- The two nibbles of a byte put together from them. -/
theorem nibbles_append :
    ∀ hi lo : Nibble, (hi ++ lo : Byte).extractLsb' 0 4 = lo ∧ (hi ++ lo : Byte).extractLsb' 4 4 = hi := by decide

/-- PACK of more than N elements. -/
theorem State.packed_out_of_range (s : State) (sel : BufSel) (count : Nat) (h : count > s.cfg.par.n) :
    s.packed sel count = .error .packCount := by
  rw [State.packed, if_pos h]

end Sys2Proof.Machine

namespace Sys2Proof

open Sys2Proof.Machine Sys2Proof.Claims

/-- The loop of rule R101 meets the closed form of rule R102: each byte has either both of its elements below `count` or
only the first. -/
theorem placedNibbles_packBytes {buf : List Nibble} {count : Nat} (h : count ≤ buf.length) :
    PlacedNibbles buf count (packBytes buf count) := by
  refine ⟨packBytes_length buf count, fun k hk => ?_⟩
  obtain hpair | rfl : 2 * k + 2 ≤ count ∨ count = 2 * k + 1 := by omega
  · obtain ⟨hlow, hhigh⟩ := nibbles_append buf[2 * k + 1] buf[2 * k]
    refine ⟨_, packBytes_getElem?_pair hpair h, ?_, fun _ => ?_, fun hend => by omega⟩
    · rw [hlow, List.getElem?_eq_getElem]
    · rw [hhigh, List.getElem?_eq_getElem]
  · obtain ⟨hlow, hhigh⟩ := nibbles_append 0#4 buf[2 * k]
    refine ⟨_, packBytes_getElem?_single h, ?_, fun hmore => by omega, fun _ => hhigh⟩
    rw [hlow, List.getElem?_eq_getElem]

/-! ## What the instruction answers and records -/

/-- An error is recorded as rules R242 and R243 say. -/
theorem raise_eq_withError (c : Cause) (s : State) : s.raise c = withError (causeFlag c) (causeCode c) s := rfl

/-- Settles O28: a count of at most N takes the loop, which places the nibbles (`placedNibbles_packBytes`). -/
theorem packPlacesNibbles : Obligations.PackPlacesNibbles := by
  intro sel count s hcount hlen
  refine ⟨packBytes (s.buf sel) count.toNat, ?_, placedNibbles_packBytes (hlen ▸ hcount)⟩
  rw [exec, execPack, State.packed_in_range s sel _ hcount]
  rfl

/-- Settles O29: the word is the encoder's, and a count above N takes the error, whose record leaves the rest alone. -/
theorem packChecksItsCount : Obligations.PackChecksItsCount := by
  constructor
  · intro sel count
    obtain rfl | rfl : sel = 0#1 ∨ sel = 1#1 := by revert sel; decide
    · exact decodeOfEncodeIsTheInstruction (.pack .tube count)
    · exact decodeOfEncodeIsTheInstruction (.pack .blank count)
  · intro sel count s hcount
    rw [exec, execPack, State.packed_out_of_range s sel _ hcount]
    exact congrArg Host.Outcome.next (raise_eq_withError .packCount (s.answer (.packingError .packCount)))

end Sys2Proof

/-! PROOFS. The tube buffer controller: 41_tube_buffer_controller.md. First the select bit of the two words, then what each
instruction writes into the buffer that the bit selects. -/

namespace Sys2Proof

open Sys2Proof.Machine

/-- U[7] is 0 for `tube_buf` and 1 for `blank_buf` (rule R75). -/
theorem selBit_ite (sel : BitVec 1) : selBit (if sel = 0#1 then .tube else .blank) = sel := by
  revert sel; decide

/-- TB_SET_DIGIT's word is unit 2, op 0, with the select bit, the position and the value for its operand. -/
theorem encode_tbSetDigit_ite (sel : BitVec 1) (pos : BitVec 3) (val : Nibble) :
    encode (.tbSetDigit (if sel = 0#1 then .tube else .blank) pos val) = .microOp (0x20#8 ++ (sel ++ pos ++ val)) := by
  rw [encode, selBit_ite]
  rfl

/-- TB_CLEAR_ALL's word is unit 2, op 1, with the select bit and seven zeros for its operand. -/
theorem encode_tbClearAll_ite (sel : BitVec 1) :
    encode (.tbClearAll (if sel = 0#1 then .tube else .blank)) = .microOp (0x21#8 ++ (sel ++ 0#7)) := by
  rw [encode, selBit_ite]
  rfl

/-- TB_SET_DIGIT in range. -/
theorem exec_tbSetDigit_in_range {s : State} (sel : BufSel) {pos : BitVec 3} (val : Nibble)
    (h : 1 ≤ pos.toNat ∧ pos.toNat ≤ s.cfg.par.n) :
    exec (.tbSetDigit sel pos val) s
      = .next ((s.setBuf sel ((s.buf sel).set (pos.toNat - 1) val)).answer .nothing) := by
  rw [exec, execTbSetDigit, State.setDigit_in_range s sel _ val h]

/-- TB_SET_DIGIT out of range. -/
theorem exec_tbSetDigit_out_of_range {s : State} (sel : BufSel) {pos : BitVec 3} (val : Nibble)
    (h : pos.toNat < 1 ∨ pos.toNat > s.cfg.par.n) :
    exec (.tbSetDigit sel pos val) s = .next ((s.raise .posRange).answer (.packingError .posRange)) := by
  rw [exec, execTbSetDigit, State.setDigit_out_of_range s sel _ val h]

/-- Element `p - 1` of a buffer whose position `pos` takes `val`, for positions that count from 1 (rule R121). -/
theorem getElem?_set_position {buf : List Nibble} {pos p : Nat} (val : Nibble) (hpos : 1 ≤ pos) (hlen : pos ≤ buf.length)
    (hp : 1 ≤ p) : (buf.set (pos - 1) val)[p - 1]? = if p = pos then some val else buf[p - 1]? := by
  by_cases h : p = pos
  · subst h
    rw [if_pos rfl, List.getElem?_set_self (by omega)]
  · rw [if_neg h, List.getElem?_set_ne (by omega)]

/-- Settles O26: the word is the encoder's; a position in range sets its element (`exec_tbSetDigit_in_range`), and one out of
range is recorded (`exec_tbSetDigit_out_of_range`). -/
theorem setDigitWritesOneElement : Obligations.SetDigitWritesOneElement := by
  refine ⟨fun sel pos val => ?_, fun sel pos val s hpos hn hlen => ?_, fun sel pos val s hpos => ?_⟩
  · rw [← encode_tbSetDigit_ite]
    exact decodeOfEncodeIsTheInstruction _
  · refine ⟨_, (s.buf sel).set (pos.toNat - 1) val, exec_tbSetDigit_in_range sel val ⟨hpos, hn⟩, ?_, ?_, fun p hp => ?_⟩
    · cases sel <;> rfl
    · rw [List.length_set, hlen]
    · exact getElem?_set_position val hpos (hlen ▸ hn) hp
  · rw [exec_tbSetDigit_out_of_range sel val (by omega)]
    exact congrArg Host.Outcome.next (raise_eq_withError .posRange (s.answer (.packingError .posRange)))

/-- Settles O27: the word is the encoder's, and N copies of OFF replace the selected buffer. -/
theorem clearAllMakesEveryElementOff : Obligations.ClearAllMakesEveryElementOff := by
  refine ⟨fun sel => ?_, fun sel s => ?_⟩
  · rw [← encode_tbClearAll_ite]
    exact decodeOfEncodeIsTheInstruction _
  · refine ⟨_, List.replicate s.cfg.par.n OFF, rfl, ?_, List.length_replicate, fun e he => List.eq_of_mem_replicate he⟩
    cases sel <;> rfl

end Sys2Proof

/-! PROOFS. The BCD register converter: 42_bcd_register_converter.md. First each conversion as arithmetic on the values of its
byte, from which the round trips follow, then what the two instructions answer. -/

namespace Sys2Proof.Machine

/-! ## The conversions as arithmetic (rules R141, R142 and R146) -/

theorem toPlain_toNat (b : Byte) : (toPlain b).toNat = 10 * (b.toNat / 16) + b.toNat % 16 := by
  have htens : b.toNat / 16 < 16 := Nat.div_lt_of_lt_mul b.isLt
  simp only [toPlain, BitVec.toNat_ofNat, BitVec.extractLsb'_toNat, Nat.shiftRight_eq_div_pow, Nat.reducePow, Nat.div_one,
    Nat.mod_eq_of_lt htens]
  omega

theorem tensDigit_toNat (v : Byte) : (tensDigit v).toNat = v.toNat / 10 % 16 := BitVec.toNat_ofNat _ 4

theorem onesDigit_toNat (v : Byte) : (onesDigit v).toNat = v.toNat % 10 := by
  rw [onesDigit, BitVec.toNat_ofNat]
  omega

/-- The register byte of any value is its two display digits put together. -/
theorem toReg_eq_digits (v : Byte) : toReg v = tensDigit v ++ onesDigit v := rfl

theorem toReg_toNat (v : Byte) : (toReg v).toNat = 16 * (v.toNat / 10 % 16) + v.toNat % 10 := by
  rw [toReg_eq_digits, BitVec.toNat_append, ← Nat.shiftLeft_add_eq_or_of_lt (onesDigit v).isLt, Nat.shiftLeft_eq,
    tensDigit_toNat, onesDigit_toNat]
  omega

/-- The tens digit shows blank exactly where the tens are 15. -/
theorem tensDigit_eq_OFF_iff (v : Byte) : tensDigit v = OFF ↔ 150 ≤ v.toNat ∧ v.toNat ≤ 159 := by
  have hoff : OFF.toNat = 15 := rfl
  rw [← BitVec.toNat_inj, tensDigit_toNat, hoff]
  omega

/-! ## The round trips (rules R143 and R144) -/

/-- Below 100 the tens are below 10, so that neither digit is truncated. -/
theorem toPlain_toReg {v : Byte} (h : v.toNat ≤ 99) : toPlain (toReg v) = v := by
  apply BitVec.eq_of_toNat_eq
  rw [toPlain_toNat, toReg_toNat]
  omega

/-- Where the low nibble is a decimal digit it is the remainder by 10, so that the nibbles come back as they were. -/
theorem toReg_toPlain {b : Byte} (hlow : b.toNat % 16 ≤ 9) : toReg (toPlain b) = b := by
  apply BitVec.eq_of_toNat_eq
  rw [toReg_toNat, toPlain_toNat]
  omega

/-! ## What the instructions answer -/

theorem exec_toPlain (b : Byte) (s : State) : exec (.toPlain b) s = .next { s with portResult := .byte (toPlain b) } := rfl

theorem exec_toReg (v : Byte) (s : State) : exec (.toReg v) s = .next { s with portResult := .byte (toReg v) } := rfl

end Sys2Proof.Machine

namespace Sys2Proof

open Sys2Proof.Machine

/-- Settles O25: both instructions answer their conversions, and these undo each other (`toPlain_toReg`, `toReg_toPlain`). -/
theorem conversionsRoundTrip : Obligations.ConversionsRoundTrip := by
  refine ⟨fun v s hv => ⟨toReg v, exec_toReg v s, ?_⟩, fun b s _ hlow => ⟨toPlain b, exec_toPlain b s, ?_⟩,
    by decide, by decide⟩
  · rw [exec_toPlain, toPlain_toReg hv]
  · rw [exec_toReg, toReg_toPlain hlow]

/-- Settles O23: the word is the encoder's, and the answer is `toPlain_toNat`'s. -/
theorem toPlainAnswersTensAndOnes : Obligations.ToPlainAnswersTensAndOnes :=
  ⟨fun b => decodeOfEncodeIsTheInstruction (.toPlain b),
    fun b s => ⟨toPlain b, exec_toPlain b s, toPlain_toNat b, toPlain_le b⟩⟩

/-- Settles O24: the word is the encoder's, and the answer is `toReg_toNat`'s. -/
theorem toRegAnswersNibbles : Obligations.ToRegAnswersNibbles :=
  ⟨fun v => decodeOfEncodeIsTheInstruction (.toReg v), fun v s => ⟨toReg v, exec_toReg v s, toReg_toNat v⟩⟩

/-- Settles O30: the register byte is made of the two digits (`toReg_eq_digits`), whose values are those of rule R146. -/
theorem digitsAreTheRegisterNibbles : Obligations.DigitsAreTheRegisterNibbles := by
  refine fun v => ⟨fun hv => ⟨toReg_eq_digits v, ?_⟩, onesDigit_toNat v, tensDigit_toNat v, tensDigit_eq_OFF_iff v⟩
  rw [tensDigit_toNat]
  omega

end Sys2Proof

/-! PROOFS. The event agent: 43_programming_fsm.md. First the rules of the mode cycle and of the adjusts, on any values and on
the valid domain, then the statements: the turn that runs a decoded word, the buttons, the clock arithmetic and the fields' range. -/

namespace Sys2Proof.Machine

/-! ## What a word and what an event runs -/

theorem runWord_of_decode {c : PortWord} {i : Instr} (h : decode c = .ok i) (s : State) : runWord c s = exec i s := by
  simp only [runWord, h]

theorem exec_pwrFall (s : State) : exec .pwrFall s = .next s.actPowerToggle := rfl

theorem exec_modeFall (s : State) : exec .modeFall s = .next s.actCycleMode := rfl

theorem exec_plusFall (s : State) : exec .plusFall s = .next s.actAdjustPlus := rfl

theorem exec_minusFall (s : State) : exec .minusFall s = .next s.actAdjustMinus := rfl

/-- A button of the group at a sampled level: its action at level 0, nothing at level 1. -/
def State.actAtLevel (level : Bool) (act : State → State) (s : State) : State := if level then s else act s

theorem exec_grpPc (plus minus mode : Bool) (s : State) : exec (.grpPc plus minus mode) s =
    .next (((s.actAtLevel plus State.actAdjustPlus).actAtLevel minus State.actAdjustMinus).actAtLevel mode
      State.actCycleMode) := rfl

/-- At level 0 a button does what its decoded event does (rule R163). -/
theorem State.actAtLevel_spec {i : Instr} {act : State → State} (hi : ∀ s, exec i s = .next (act s)) (level : Bool)
    (s : State) :
    if level = false then exec i s = .next (s.actAtLevel level act) else s.actAtLevel level act = s := by
  cases level
  · exact hi s
  · rfl

theorem flipPower_ne (p : PowerState) : flipPower p ≠ p := by
  cases p <;> decide

/-! ## The mode cycle (rules R165 and R166) -/

/-- The successor is the increment modulo 4 of the encoding. -/
theorem progBits_nextProg (q : ProgState) : (progBits (nextProg q)).toNat = ((progBits q).toNat + 1) % 4 := by
  cases q <;> rfl

/-- The cycle's length is four, from each of its states. -/
theorem nextProg_cycle (q : ProgState) :
    nextProg (nextProg (nextProg (nextProg q))) = q ∧ nextProg q ≠ q ∧ nextProg (nextProg q) ≠ q
      ∧ nextProg (nextProg (nextProg q)) ≠ q := by
  cases q <;> decide

theorem State.actCycleMode_guarded {s : State} (h : s.progState = .notProg ∧ s.powerState = .off) :
    s.actCycleMode = s := if_pos h

theorem State.actCycleMode_unguarded {s : State} (h : ¬ (s.progState = .notProg ∧ s.powerState = .off)) :
    s.actCycleMode = { s with progState := nextProg s.progState } := if_neg h

/-- The guard is never met with the power ON. -/
theorem exec_modeFall_withModes_on (s : State) (q : ProgState) :
    exec .modeFall (s.withModes .on q) = .next (s.withModes .on (nextProg q)) := by
  rw [exec_modeFall, State.actCycleMode_unguarded fun ⟨_, hoff⟩ => PowerState.noConfusion hoff]
  rfl

/-! ## The adjusts on any values (rules R167 to R171) -/

/-- The active field takes `d` and the others 0, with one conditional per field. -/
theorem bumpField_eq (q : ProgState) (d : Int) (t : Hms) :
    bumpField q d t = ⟨t.h + (if q = .editH then d else 0), t.m + (if q = .editM then d else 0),
      t.s + (if q = .editS then d else 0)⟩ := by
  cases q <;> simp [bumpField]

section
variable {s : State}

/-- The fields that an adjust plus leaves in an editing state, from the incremented fields and the carries of rule R169. -/
theorem State.actAdjustPlus_fields (hq : s.progState ≠ .notProg) {s0 m0 h0 m1 h1 : Nat}
    (hs0 : s0 = s.seconds.toNat + (if s.progState = .editS then 1 else 0))
    (hm0 : m0 = s.minutes.toNat + (if s.progState = .editM then 1 else 0))
    (hh0 : h0 = s.hours.toNat + (if s.progState = .editH then 1 else 0))
    (hm1 : m1 = if s0 ≥ 60 then m0 + 1 else m0) (hh1 : h1 = if m1 ≥ 60 then h0 + 1 else h0) :
    s.actAdjustPlus.seconds = BitVec.ofNat 8 (if s0 ≥ 60 then s0 - 60 else s0)
      ∧ s.actAdjustPlus.minutes = BitVec.ofNat 8 (if m1 ≥ 60 then m1 - 60 else m1)
      ∧ s.actAdjustPlus.hours = BitVec.ofNat 8 (if h1 ≥ 24 then 0 else h1) := by
  have hbump : bumpField s.progState 1 s.hms = ⟨h0, m0, s0⟩ := by
    rw [bumpField_eq, hs0, hm0, hh0, State.hms]
    push_cast
    rfl
  obtain ⟨m, h, cs, cm, ch⟩ := carryCascade_spec ⟨h0, m0, s0⟩
  simp only at cs cm ch
  rw [(State.actAdjust_editing s hq).1, hbump, State.storeHms_seconds, State.storeHms_minutes, State.storeHms_hours]
  simp only [← BitVec.ofInt_natCast]
  refine ⟨congrArg _ ?_, congrArg _ ?_, congrArg _ ?_⟩
  · split <;> omega
  · split at hm1 <;> split <;> omega
  · split at hm1 <;> split at hh1 <;> split <;> omega

/-- A field that takes -1 where `dec` is set, with `wrap` in the place of a negative value (rule R170). -/
def decremented (dec : Bool) (v wrap : Byte) : Byte := if dec then (if v = 0#8 then wrap else v - 1#8) else v

/-- The byte of an integer that the borrow cascade leaves in a field. -/
theorem ofInt_eq_decremented {v : Byte} {wrap : Nat} {dec : Bool} {r : Int}
    (hr : (v.toNat : Int) - (if dec then 1 else 0) < 0 ∧ r = wrap
      ∨ (v.toNat : Int) - (if dec then 1 else 0) ≥ 0 ∧ r = v.toNat - (if dec then 1 else 0)) :
    BitVec.ofInt 8 r = decremented dec v (BitVec.ofNat 8 wrap) := by
  unfold decremented
  have hstored {u : Byte} (hu : r = u.toNat) : BitVec.ofInt 8 r = u := by simp [hu]
  cases dec with
  | false =>
    simp only [Bool.false_eq_true, if_false] at hr ⊢
    exact hstored (by omega)
  | true =>
    simp only [if_true] at hr ⊢
    split
    next hv =>
      have hwrap : r = wrap := by simp only [hv, BitVec.toNat_zero] at hr; omega
      rw [hwrap, BitVec.ofInt_natCast]
    next hv =>
      have hpos : v.toNat ≠ 0 := fun h => hv (BitVec.eq_of_toNat_eq h)
      have hsub : (v - 1#8).toNat = v.toNat - 1 := by bv_omega
      exact hstored (by omega)

/-- The fields that an adjust minus leaves in an editing state: a field is decremented where it is the active one, or where the
field below it is decremented from 0 (rule R170). -/
theorem State.actAdjustMinus_fields (hq : s.progState ≠ .notProg) {decS decM decH : Bool}
    (hS : decS = decide (s.progState = .editS))
    (hM : decM = (decide (s.progState = .editM) || (decS && decide (s.seconds = 0#8))))
    (hH : decH = (decide (s.progState = .editH) || (decM && decide (s.minutes = 0#8)))) :
    s.actAdjustMinus.seconds = decremented decS s.seconds 59#8
      ∧ s.actAdjustMinus.minutes = decremented decM s.minutes 59#8
      ∧ s.actAdjustMinus.hours = decremented decH s.hours 23#8 := by
  have hzero (v : Byte) : v = 0#8 ↔ v.toNat = 0 := BitVec.toNat_inj.symm
  obtain ⟨m1, h1, cs, cm, ch⟩ := borrowCascade_spec (bumpField s.progState (-1) s.hms)
  rw [(State.actAdjust_editing s hq).2, State.storeHms_seconds, State.storeHms_minutes, State.storeHms_hours]
  generalize borrowCascade (bumpField s.progState (-1) s.hms) = r at *
  simp only [bumpField_eq, State.hms] at cs cm ch
  have hs : (s.seconds.toNat : Int) + (if s.progState = .editS then -1 else 0)
      = s.seconds.toNat - (if decS then 1 else 0) := by
    simp only [hS, decide_eq_true_eq]
    split <;> rfl
  -- Only one field is active, so no field takes both its own -1 and a borrow.
  have hm : m1 = s.minutes.toNat - (if decM then 1 else 0) := by
    simp only [hM, hS, hzero]
    cases hp : s.progState <;> simp [hp] at cs ⊢ <;> omega
  have hh : h1 = s.hours.toNat - (if decH then 1 else 0) := by
    simp only [hH, hM, hS, hzero] at hm ⊢
    cases hp : s.progState <;> simp [hp] at hm cm ⊢ <;> omega
  rw [hs] at cs
  subst hm hh
  exact ⟨ofInt_eq_decremented (by omega), ofInt_eq_decremented (by omega), ofInt_eq_decremented (by omega)⟩

/-- An adjust does not read the power state (rule R172). -/
theorem State.actAdjust_powerState (s : State) (p : PowerState) :
    ({ s with powerState := p } : State).actAdjustPlus = { s.actAdjustPlus with powerState := p }
      ∧ ({ s with powerState := p } : State).actAdjustMinus = { s.actAdjustMinus with powerState := p } := by
  by_cases hq : s.progState = .notProg
  · obtain ⟨hplus, hminus⟩ := State.actAdjust_notProg s hq
    rw [hplus, hminus]
    exact State.actAdjust_notProg { s with powerState := p } hq
  · obtain ⟨hplus, hminus⟩ := State.actAdjust_editing s hq
    rw [hplus, hminus]
    exact State.actAdjust_editing { s with powerState := p } hq

/-- Integers in 0..255 are stored as they are (rule R173). -/
theorem State.storeHms_toNat {x : Hms} (hh : 0 ≤ x.h ∧ x.h < 256) (hm : 0 ≤ x.m ∧ x.m < 256) (hs : 0 ≤ x.s ∧ x.s < 256) :
    ((s.storeHms x).hours.toNat : Int) = x.h ∧ ((s.storeHms x).minutes.toNat : Int) = x.m
      ∧ ((s.storeHms x).seconds.toNat : Int) = x.s :=
  ⟨toNat_ofInt_field x.h hh, toNat_ofInt_field x.m hm, toNat_ofInt_field x.s hs⟩

end

/-! ## The cascades where they have nothing to do -/

theorem carryCascade_eq_self {t : Hms} (hh : t.h < 24) (hm : t.m < 60) (hs : t.s < 60) : carryCascade t = t := by
  simp [carryCascade, Int.not_le.2 hh, Int.not_le.2 hm, Int.not_le.2 hs]

theorem borrowCascade_eq_self {t : Hms} (hh : 0 ≤ t.h) (hm : 0 ≤ t.m) (hs : 0 ≤ t.s) : borrowCascade t = t := by
  simp [borrowCascade, Int.not_lt.2 hh, Int.not_lt.2 hm, Int.not_lt.2 hs]

/-! ## The cascades as clock arithmetic (rule R176) -/

section
open Sys2Proof.Claims (adjustUnit)

/-- The valid domain of rule R176, for a time as three integers. -/
def Hms.Valid (t : Hms) : Prop := (0 ≤ t.h ∧ t.h ≤ 23) ∧ (0 ≤ t.m ∧ t.m ≤ 59) ∧ (0 ≤ t.s ∧ t.s ≤ 59)

/-- The seconds of the day, for a time as three integers. -/
def Hms.toSeconds (t : Hms) : Int := t.h * 3600 + t.m * 60 + t.s

/-- Adding one unit and carrying is addition on a 24-hour clock. -/
theorem carryCascade_clock (q : ProgState) {t : Hms} (h : t.Valid) :
    (carryCascade (bumpField q 1 t)).Valid
      ∧ (carryCascade (bumpField q 1 t)).toSeconds = (t.toSeconds + adjustUnit q) % 86400 := by
  obtain ⟨m1, h1, cs, cm, ch⟩ := carryCascade_spec (bumpField q 1 t)
  unfold Hms.Valid Hms.toSeconds at *
  cases q <;> simp only [bumpField, adjustUnit] at cs cm ch ⊢ <;> omega

/-- Taking one unit and borrowing is subtraction on a 24-hour clock. -/
theorem borrowCascade_clock (q : ProgState) {t : Hms} (h : t.Valid) :
    (borrowCascade (bumpField q (-1) t)).Valid
      ∧ (borrowCascade (bumpField q (-1) t)).toSeconds = (t.toSeconds - adjustUnit q) % 86400 := by
  obtain ⟨m1, h1, cs, cm, ch⟩ := borrowCascade_spec (bumpField q (-1) t)
  unfold Hms.Valid Hms.toSeconds at *
  cases q <;> simp only [bumpField, adjustUnit] at cs cm ch ⊢ <;> omega

end

end Sys2Proof.Machine

namespace Sys2Proof

open Sys2Proof.Machine Sys2Proof.Claims

/-! ## The turn that runs an instruction -/

/-- Settles O5: `step` runs the next turn's word, and `runWord` what it decodes to; taking the turn leaves `seq_pc` alone. -/
theorem stepRunsTheDecodedInstruction : Obligations.StepRunsTheDecodedInstruction := by
  intro s s1 i
  refine ⟨fun w hturn hdec => ?_, fun hturn hdec => ?_, fun w hturn hdec => ?_⟩
  · simp only [step, hturn, runWord_of_decode hdec]
  · have hpc : s1.seqPc = s.seqPc := by
      obtain ⟨ts, n, e⟩ := State.nextTurn_changes s
      rw [hturn] at e
      rw [show s1 = _ from e]
    simp only [step, hturn, hpc, runWord_of_decode hdec]
  · simp only [step, hturn, runWord_of_decode hdec]

/-! ## The power button -/

/-- Settles O10. The sixteen words are decided. -/
theorem powerFallToggles : Obligations.PowerFallToggles := by
  refine ⟨by decide, fun s => ⟨_, exec_pwrFall s, fun hoff => ?_, fun hon => ?_⟩⟩
  · rw [State.actPowerToggle, hoff, flipPower]
  · rw [State.actPowerToggle, hon, flipPower]

/-- Settles O11. The sixteen words are decided. -/
theorem powerPinChangeActsOnLevelZero : Obligations.PowerPinChangeActsOnLevelZero :=
  ⟨by decide, fun s => ⟨rfl, s.actPowerToggle, rfl, exec_pwrFall s, flipPower_ne s.powerState, rfl⟩⟩

/-! ## The mode button -/

/-- Settles O12, by the guard of rule R165. The sixteen words are decided. -/
theorem modeFallCyclesTheProgrammingState : Obligations.ModeFallCyclesTheProgrammingState := by
  refine ⟨by decide, fun s => ⟨_, exec_modeFall s, fun hq hp => State.actCycleMode_guarded ⟨hq, hp⟩, fun hfree => ?_⟩⟩
  rw [State.actCycleMode_unguarded hfree]
  exact ⟨progBits_nextProg s.progState, rfl⟩

/-- Settles O13: with the power ON every mode event takes the successor, in a cycle of four. -/
theorem fourModeEventsReturn : Obligations.FourModeEventsReturn := by
  intro s s1 s2 s3 hon h1 h2 h3
  have hs : s.withModes .on s.progState = s := by rw [← hon]; rfl
  have hmode := exec_modeFall_withModes_on s
  have hfirst := hmode s.progState
  rw [hs] at hfirst
  cases hfirst.symm.trans h1
  cases (hmode _).symm.trans h2
  cases (hmode _).symm.trans h3
  obtain ⟨hreturn, hne1, hne2, hne3⟩ := nextProg_cycle s.progState
  exact ⟨by rw [hmode, hreturn, hs], hne1, hne2, hne3⟩

/-! ## The adjust buttons -/

/-- Settles O14: the frame and the three fields of an adjust plus. The sixteen words are decided. -/
theorem plusFallIncrementsWithCarry : Obligations.PlusFallIncrementsWithCarry :=
  ⟨by decide, fun s => ⟨_, exec_plusFall s, State.actAdjustPlus_frame s, fun hq => (State.actAdjust_notProg s hq).1,
    fun hq _ _ _ _ _ => State.actAdjustPlus_fields hq⟩⟩

/-- Settles O15: the frame and the three fields of an adjust minus. The sixteen words are decided. -/
theorem minusFallDecrementsWithBorrow : Obligations.MinusFallDecrementsWithBorrow :=
  ⟨by decide, fun s => ⟨_, exec_minusFall s, State.actAdjustMinus_frame s, fun hq => (State.actAdjust_notProg s hq).2,
    fun hq _ _ _ => State.actAdjustMinus_fields hq⟩⟩

/-- Settles O22: neither action reads the power state. -/
theorem adjustIgnoresPower : Obligations.AdjustIgnoresPower := by
  intro s t p
  obtain ⟨hplus, hminus⟩ := State.actAdjust_powerState s p
  refine ⟨fun h => ?_, fun h => ?_⟩
  · cases h
    rw [exec_plusFall, hplus]
  · cases h
    rw [exec_minusFall, hminus]

/-- Settles O18: GRP_PC is the three buttons in a row, each at its level. The sixteen words are decided. -/
theorem groupActsInOrder : Obligations.GroupActsInOrder :=
  ⟨by decide, fun plus minus mode s => ⟨_, _, _, exec_grpPc plus minus mode s, State.actAtLevel_spec exec_plusFall plus s,
    State.actAtLevel_spec exec_minusFall minus _, State.actAtLevel_spec exec_modeFall mode _⟩⟩

/-- Settles O17: one added leaves no field negative, and one taken leaves none at its limit, so no test of the other
direction's cascade is met. -/
theorem cascadeChoiceIsImmaterialOnTheValidDomain : Obligations.CascadeChoiceIsImmaterialOnTheValidDomain := by
  rintro s ⟨hh, hm, hs⟩
  obtain ⟨ph, pm, ps⟩ := bumpField_each s.progState 1 s.hms
  obtain ⟨nh, nm, ns⟩ := bumpField_each s.progState (-1) s.hms
  simp only [State.hms_h, State.hms_m, State.hms_s] at ph pm ps nh nm ns
  exact ⟨borrowCascade_eq_self (by omega) (by omega) (by omega), carryCascade_eq_self (by omega) (by omega) (by omega)⟩

/-! ## The clock arithmetic of the adjusts (rule R176) -/

section
variable {s t : State}

theorem ValidTime.hms (h : ValidTime s) : s.hms.Valid := by
  simp only [Hms.Valid, State.hms_h, State.hms_m, State.hms_s]
  unfold ValidTime at h
  omega

theorem toSeconds_hms (s : State) : s.hms.toSeconds = secondsOfDay s := by
  simp only [Hms.toSeconds, secondsOfDay, State.hms_h, State.hms_m, State.hms_s]
  omega

/-- A stored valid time is valid, and its seconds are those of the three integers. -/
theorem validTime_storeHms (s : State) {x : Hms} (hx : x.Valid) :
    ValidTime (s.storeHms x) ∧ (secondsOfDay (s.storeHms x) : Int) = x.toSeconds := by
  unfold Hms.Valid at hx
  obtain ⟨eh, em, es⟩ := State.storeHms_toNat (s := s) (x := x) (by omega) (by omega) (by omega)
  unfold ValidTime secondsOfDay Hms.toSeconds
  omega

theorem ValidTime.secondsOfDay_lt (h : ValidTime s) : secondsOfDay s < 86400 := by
  unfold ValidTime at h
  unfold secondsOfDay
  omega

theorem adjustUnit_le (q : ProgState) : adjustUnit q ≤ 3600 := by
  cases q <;> decide

theorem ValidTime.actAdjustPlus (h : ValidTime s) (hq : s.progState ≠ .notProg) : ValidTime s.actAdjustPlus
    ∧ secondsOfDay s.actAdjustPlus = (secondsOfDay s + adjustUnit s.progState) % 86400 := by
  obtain ⟨hclock, hseconds⟩ := carryCascade_clock s.progState h.hms
  obtain ⟨hvalid, hstored⟩ := validTime_storeHms s hclock
  rw [(State.actAdjust_editing s hq).1]
  rw [toSeconds_hms] at hseconds
  exact ⟨hvalid, by omega⟩

theorem ValidTime.actAdjustMinus (h : ValidTime s) (hq : s.progState ≠ .notProg) : ValidTime s.actAdjustMinus
    ∧ secondsOfDay s.actAdjustMinus = (secondsOfDay s + 86400 - adjustUnit s.progState) % 86400 := by
  obtain ⟨hclock, hseconds⟩ := borrowCascade_clock s.progState h.hms
  obtain ⟨hvalid, hstored⟩ := validTime_storeHms s hclock
  have hunit := adjustUnit_le s.progState
  rw [(State.actAdjust_editing s hq).2]
  rw [toSeconds_hms] at hseconds
  exact ⟨hvalid, by omega⟩

/-- On the valid domain the time of day decides the three fields. -/
theorem ValidTime.fields_eq (hs : ValidTime s) (ht : ValidTime t) (h : secondsOfDay t = secondsOfDay s) :
    t.hours = s.hours ∧ t.minutes = s.minutes ∧ t.seconds = s.seconds := by
  unfold ValidTime at hs ht
  unfold secondsOfDay at h
  simp only [← BitVec.toNat_inj]
  omega

/-- On the valid domain an adjust minus undoes an adjust plus: the clock is back, and so are its fields. -/
theorem ValidTime.actAdjustMinus_actAdjustPlus (h : ValidTime s) : s.actAdjustPlus.actAdjustMinus = s := by
  by_cases hq : s.progState = .notProg
  · obtain ⟨hplus, hminus⟩ := State.actAdjust_notProg s hq
    rw [hplus, hminus]
  · obtain ⟨hvalid, hplus⟩ := h.actAdjustPlus hq
    obtain ⟨hvalid', hminus⟩ := hvalid.actAdjustMinus (by rwa [State.actAdjustPlus_progState])
    rw [State.actAdjustPlus_progState] at hminus
    have hlt := h.secondsOfDay_lt
    have hunit := adjustUnit_le s.progState
    obtain ⟨hh, hm, hs⟩ := h.fields_eq hvalid' (by omega)
    rw [State.actAdjustMinus_frame, hh, hm, hs, State.actAdjustPlus_frame]

end

/-- Settles O16, by the two laws above. -/
theorem adjustIsClockArithmetic : Obligations.AdjustIsClockArithmetic :=
  fun s h hq => ⟨⟨_, exec_plusFall s, h.actAdjustPlus hq⟩, ⟨_, exec_minusFall s, h.actAdjustMinus hq⟩⟩

/-- Settles O19: the group's plus and minus are one adjust after the other, which cancel; the mode button then acts on the state
before. -/
theorem plusAndMinusTogetherCancel : Obligations.PlusAndMinusTogetherCancel := by
  intro s h
  have hcancel := h.actAdjustMinus_actAdjustPlus
  constructor
  · exact congrArg Host.Outcome.next hcancel
  · exact congrArg (fun u : State => Host.Outcome.next u.actCycleMode) hcancel

/-! ## The fields' range (rule R175) -/

section
variable {s t : State}

/-- No field exceeds 166 before the carries, and a carry takes 60. -/
theorem actAdjustPlus_le (h : FieldsBounded s) (hq : s.progState ≠ .notProg) :
    s.actAdjustPlus.seconds.toNat ≤ 106 ∧ s.actAdjustPlus.minutes.toNat ≤ 107 ∧ s.actAdjustPlus.hours.toNat ≤ 23 := by
  obtain ⟨bh, bm, bs⟩ := bumpField_each s.progState 1 s.hms
  obtain ⟨m1, h1, cs, cm, ch⟩ := carryCascade_spec (bumpField s.progState 1 s.hms)
  simp only [State.hms_h, State.hms_m, State.hms_s] at bh bm bs
  unfold FieldsBounded at h
  rw [(State.actAdjust_editing s hq).1]
  obtain ⟨eh, em, es⟩ := State.storeHms_toNat (s := s) (x := carryCascade (bumpField s.progState 1 s.hms)) (by omega)
    (by omega) (by omega)
  omega

theorem decremented_le_or_eq (dec : Bool) (v wrap : Byte) :
    (decremented dec v wrap).toNat ≤ v.toNat ∨ decremented dec v wrap = wrap := by
  unfold decremented
  split
  · split
    · exact .inr rfl
    · exact .inl (by bv_omega)
  · exact .inl le_rfl

theorem actAdjustMinus_le_or_eq (s : State) :
    (s.actAdjustMinus.seconds.toNat ≤ s.seconds.toNat ∨ s.actAdjustMinus.seconds = 59#8)
      ∧ (s.actAdjustMinus.minutes.toNat ≤ s.minutes.toNat ∨ s.actAdjustMinus.minutes = 59#8)
      ∧ (s.actAdjustMinus.hours.toNat ≤ s.hours.toNat ∨ s.actAdjustMinus.hours = 23#8) := by
  by_cases hq : s.progState = .notProg
  · rw [(State.actAdjust_notProg s hq).2]
    exact ⟨.inl le_rfl, .inl le_rfl, .inl le_rfl⟩
  · obtain ⟨hs, hm, hh⟩ := State.actAdjustMinus_fields hq rfl rfl rfl
    rw [hs, hm, hh]
    exact ⟨decremented_le_or_eq .., decremented_le_or_eq .., decremented_le_or_eq ..⟩

/-- Of the sequencer's steps only a load writes a field, with TO_PLAIN of a byte. -/
theorem FieldsBounded.sequencerEffect (h : FieldsBounded s) (he : SequencerEffect s t) : FieldsBounded t := by
  cases he with
  | load oks rs n f b code => exact FieldsBounded.setField (s := { s with
      accessOks := oks, reads := rs, draws := n }.record (.rtcRead (s.cfg.par.rtcOff f) b)) h f (toPlain_le b)
  | clear sel => cases sel <;> exact h
  | _ => exact h

/-- Along the three kinds of instruction. -/
theorem FieldsBounded.of_exec {i : Instr} (h : FieldsBounded s) (hx : exec i s = .next t) : FieldsBounded t := by
  cases hevent : i.isEvent with
  | true => exact h.exec_event hevent hx
  | false =>
    cases hmicro : i.isMicroOp with
    | true =>
      rw [exec_microOp_frame s i t hmicro hx]
      exact h
    | false => exact h.sequencerEffect (exec_step_effect s i t (by simp [Instr.isStep, hevent, hmicro]) hx)

end

/-- Along the cases of `step_cases`: taking the turn and recording an error leave the fields alone, and reset makes them 0. -/
theorem FieldsBounded.of_step {s t : State} (h : FieldsBounded s) (hstep : step s = .next t) : FieldsBounded t := by
  obtain ⟨ts, n, hturn⟩ := State.nextTurn_changes s
  have hnext : FieldsBounded s.nextTurn.2 := by rw [hturn]; exact h
  rcases step_cases s with ⟨c, i, -, hs, -⟩ | ⟨w, -, -, hs⟩ | ⟨-, hs⟩ | ⟨r, hs⟩ <;> rw [hs] at hstep
  · exact hnext.of_exec hstep
  · cases hstep
    exact hnext
  · cases hstep
    exact (inv_resetOf s.nextTurn.2.cfg).fields
  · cases hstep

/-- Settles O44: the range over a step, then the bounds of the two adjusts. -/
theorem fieldsStayInRange : Obligations.FieldsStayInRange := by
  refine ⟨fun s t => FieldsBounded.of_step, fun s t h hq hx => ?_, fun s t hx => ?_⟩
  · cases hx
    exact actAdjustPlus_le h hq
  · cases hx
    exact actAdjustMinus_le_or_eq s

end Sys2Proof

/-! PROOFS. The render sequencer: 44_render_sequencer.md. First what each shared operation of its steps does where an access
succeeds or fails, and the tubes that the L_MAP steps show; from that each step, and from the steps the three iterations. Last
the run that never ends. -/

namespace Sys2Proof.Claims

open Sys2Proof.Machine

/-! ## The environment's draws (rules R56 and R202) -/

section
variable {s s1 : State}

theorem accessSucceeds_iff : AccessSucceeds s s1 ↔ s.drawOk = (true, s1) := by
  cases hcan : s.cfg.par.collabCanFail with
  | false => simp [AccessSucceeds, State.drawOk, hcan, eq_comm (a := s1)]
  | true => cases hoks : s.accessOks <;> simp [AccessSucceeds, State.drawOk, hcan, hoks, eq_comm (b := s1)]

theorem accessFails_iff : AccessFails s s1 ↔ s.drawOk = (false, s1) := by
  cases hcan : s.cfg.par.collabCanFail with
  | false => simp [AccessFails, State.drawOk, hcan]
  | true => cases hoks : s.accessOks <;> simp [AccessFails, State.drawOk, hcan, hoks, eq_comm (b := s1)]

theorem drawByte_of_timeSourceAnswers {b : Byte} (h : TimeSourceAnswers s b s1) : s.drawByte = (b, s1) := by
  rcases h with ⟨rest, hreads, rfl⟩ | ⟨hreads, rfl, rfl⟩ <;> simp [State.drawByte, hreads]

/-- An access's outcome is drawn from the environment alone. -/
theorem AccessSucceeds.environment (h : AccessSucceeds s s1) :
    ∃ oks n, s1 = { s with accessOks := oks, draws := n } := by
  obtain ⟨oks, n, e⟩ := State.drawOk_changes s
  rw [accessSucceeds_iff.1 h] at e
  exact ⟨oks, n, e⟩

theorem accessSucceeds_of_cannot_fail (h : s.cfg.par.collabCanFail = false) : AccessSucceeds s s := .inl ⟨h, rfl⟩

/-! ## The shared operations, where the access succeeds and where it fails -/

/-- A write adds itself to the history and goes on (rule R57). -/
theorem AccessSucceeds.rtcWriteThen (h : AccessSucceeds s s1) (off b : Byte) (code : BitVec 5) (onFail : State → State) :
    s.rtcWriteThen off b code onFail
      = { s1 with history := s.history ++ [.rtcWrite off b], seqPc := code } := by
  obtain ⟨oks, n, rfl⟩ := h.environment
  simp only [State.rtcWriteThen, accessSucceeds_iff.1 h]
  rfl

/-- A write-back writes TO_REG of its field at the field's offset (rules R215 to R217). -/
theorem AccessSucceeds.writeBack (h : AccessSucceeds s s1) (f : Field) (code : BitVec 5) :
    s.writeBack f code
      = { s1 with history := s.history ++ [.rtcWrite (s.cfg.par.rtcOff f) (toReg (s.field f))], seqPc := code } :=
  h.rtcWriteThen ..

/-- A load adds its read to the history, stores TO_PLAIN of the byte and goes on (rules R56, R211 to R213). -/
theorem AccessSucceeds.rtcLoadThen {s2 : State} {b : Byte} (h : AccessSucceeds s s1) (hb : TimeSourceAnswers s1 b s2)
    (f : Field) (code : BitVec 5) :
    s.rtcLoadThen f code = State.setField f (toPlain b)
      { s2 with history := s.history ++ [.rtcRead (s.cfg.par.rtcOff f) b], seqPc := code } := by
  obtain ⟨oks, n, rfl⟩ := h.environment
  obtain ⟨rs, m, e⟩ := State.drawByte_changes { s with accessOks := oks, draws := n }
  simp only [State.rtcLoadThen, accessSucceeds_iff.1 h]
  rw [drawByte_of_timeSourceAnswers hb] at e ⊢
  cases e
  cases f <;> rfl

/-- The whole buffer goes out packed, `last_tx` is its bytes, and L_POWER is next (rules R201, R209, R222). -/
theorem AccessSucceeds.packAndTransmit (h : AccessSucceeds s s1) (sel : BufSel) :
    s.packAndTransmit sel = { s1 with
      lastTx := packBytes (s.buf sel) s.cfg.par.n,
      history := s.history ++ [.transmit (packBytes (s.buf sel) s.cfg.par.n) s.cfg.par.serialMsbFirst],
      seqPc := codePower } := by
  obtain ⟨oks, n, rfl⟩ := h.environment
  simp only [State.packAndTransmit_eq, State.transmitThenPower, accessSucceeds_iff.1 h]
  rfl

theorem AccessFails.rtcWriteThen (h : AccessFails s s1) (off b : Byte) (code : BitVec 5) (onFail : State → State) :
    s.rtcWriteThen off b code onFail = onFail s1 := by
  simp [State.rtcWriteThen, accessFails_iff.1 h]

theorem AccessFails.rtcLoadThen (h : AccessFails s s1) (f : Field) (code : BitVec 5) :
    s.rtcLoadThen f code = s1.abandonAfterFail := by
  simp [State.rtcLoadThen, accessFails_iff.1 h]

theorem AccessFails.packAndTransmit (h : AccessFails s s1) (sel : BufSel) :
    s.packAndTransmit sel = s1.abandonAfterFail := by
  simp [State.packAndTransmit_eq, State.transmitThenPower, accessFails_iff.1 h]

end

end Sys2Proof.Claims

namespace Sys2Proof

open Sys2Proof.Machine Sys2Proof.Claims

/-! ## The tubes that the L_MAP steps show (rules R219 to R221) -/

/-- DIGITS, one digit at a time (rule R146). -/
def digitOf : Digit → Byte → Nibble
  | .tens => tensDigit
  | .ones => onesDigit

/-- A buffer after the two digits of `v` are placed at the positions of field `f`, where TUBE_MAP holds it. -/
def Config.placeField (c : Config) (f : Field) (v : Byte) (buf : List Nibble) : List Nibble :=
  match c.par.tubeMap.at f .tens, c.par.tubeMap.at f .ones with
  | some tens, some ones => (buf.set (tens - 1) (tensDigit v)).set (ones - 1) (onesDigit v)
  | _, _ => buf

/-- A buffer of N elements that shows the digits of each field's value at their positions, and OFF elsewhere. -/
def Config.shown (c : Config) (v : Field → Byte) : List Nibble :=
  c.placeField .s (v .s) (c.placeField .m (v .m) (c.placeField .h (v .h) (List.replicate c.par.n OFF)))

/-- The map steps never take the fail-safe. -/
theorem Machine.State.mapField_eq (s : State) (f : Field) (code : BitVec 5) : s.mapField f code =
    { s with tubeBuf := s.cfg.placeField f (s.field f) s.tubeBuf, seqPc := code } := by
  unfold Config.placeField
  rcases State.mapField_cases s f code with ⟨tens, ones, ht, ho, e⟩ | ⟨ht, ho, e⟩ <;> rw [e, ht, ho] <;> rfl

section
variable {c : Config} {f : Field} {d : Digit} {v : Byte} {buf : List Nibble} {p tens ones : Nat}

theorem Config.placeField_mapped (ht : c.par.tubeMap.at f .tens = some tens) (ho : c.par.tubeMap.at f .ones = some ones) :
    c.placeField f v buf = (buf.set (tens - 1) (tensDigit v)).set (ones - 1) (onesDigit v) := by
  simp only [Config.placeField, ht, ho]

@[simp] theorem Config.placeField_length : (c.placeField f v buf).length = buf.length := by
  unfold Config.placeField
  split
  · rw [List.length_set, List.length_set]
  · rfl

/-- Rule R8: a field with one digit mapped has both. -/
theorem Config.mapped_both (hp : c.par.tubeMap.at f d = some p) :
    ∃ tens ones, c.par.tubeMap.at f .tens = some tens ∧ c.par.tubeMap.at f .ones = some ones := by
  have hpair := Config.digits_paired c f
  cases d with
  | tens =>
    obtain ⟨ones, ho⟩ := Option.isSome_iff_exists.1 (hpair.symm.trans (by rw [hp]; rfl))
    exact ⟨p, ones, hp, ho⟩
  | ones =>
    obtain ⟨tens, ht⟩ := Option.isSome_iff_exists.1 (hpair.trans (by rw [hp]; rfl))
    exact ⟨tens, p, ht, hp⟩

/-- Both digits are in the buffer: their positions are in range, and the second does not overwrite the first (rule R8). -/
theorem Config.placeField_digit (hlen : buf.length = c.par.n) (hp : c.par.tubeMap.at f d = some p) :
    (c.placeField f v buf)[p - 1]? = some (digitOf d v) := by
  obtain ⟨tens, ones, ht, ho⟩ := Config.mapped_both hp
  obtain ⟨ht1, htn⟩ := Config.position_range c f _ _ ht
  obtain ⟨ho1, hon⟩ := Config.position_range c f _ _ ho
  have hne : tens ≠ ones := by
    rintro rfl
    obtain ⟨-, hdigit⟩ := Config.positions_distinct c f f _ _ tens ht ho
    cases hdigit
  rw [Config.placeField_mapped ht ho]
  cases d with
  | tens =>
    cases ht.symm.trans hp
    rw [getElem?_set_position _ ho1 (by simpa [hlen]) ht1, if_neg hne, getElem?_set_position _ ht1 (by omega) ht1,
      if_pos rfl, digitOf]
  | ones =>
    cases ho.symm.trans hp
    rw [getElem?_set_position _ ho1 (by simpa [hlen]) ho1, if_pos rfl, digitOf]

/-- No other element changes. -/
theorem Config.placeField_other (hlen : buf.length = c.par.n) (h1 : 1 ≤ p) (hp : ∀ d, c.par.tubeMap.at f d ≠ some p) :
    (c.placeField f v buf)[p - 1]? = buf[p - 1]? := by
  unfold Config.placeField
  split
  next tens ones ht ho =>
    obtain ⟨ht1, htn⟩ := Config.position_range c f _ _ ht
    obtain ⟨ho1, hon⟩ := Config.position_range c f _ _ ho
    have htens : p ≠ tens := fun e => hp .tens (e ▸ ht)
    have hones : p ≠ ones := fun e => hp .ones (e ▸ ho)
    rw [getElem?_set_position _ ho1 (by simpa [hlen]) h1, if_neg hones, getElem?_set_position _ ht1 (by omega) h1,
      if_neg htens]
  next => rfl

variable {values : Field → Byte}

theorem Config.shown_length : (c.shown values).length = c.par.n := by
  simp [Config.shown]

/-- No later field overwrites a digit, for no two digits share a tube (rule R8). -/
theorem Config.shown_digit (hp : c.par.tubeMap.at f d = some p) :
    (c.shown values)[p - 1]? = some (digitOf d (values f)) := by
  obtain ⟨h1, -⟩ := Config.position_range c f d p hp
  have other {g : Field} (hg : g ≠ f) (e : Digit) : c.par.tubeMap.at g e ≠ some p := by
    intro he
    obtain ⟨hfield, -⟩ := Config.positions_distinct c g f e d p he hp
    exact hg hfield
  unfold Config.shown
  cases f with
  | h =>
    rw [Config.placeField_other (by simp) h1 (other (by decide)),
      Config.placeField_other (by simp) h1 (other (by decide)), Config.placeField_digit (by simp) hp]
  | m => rw [Config.placeField_other (by simp) h1 (other (by decide)), Config.placeField_digit (by simp) hp]
  | s => rw [Config.placeField_digit (by simp) hp]

theorem Config.shown_off (h1 : 1 ≤ p) (hn : p ≤ c.par.n) (hp : ∀ f d, c.par.tubeMap.at f d ≠ some p) :
    (c.shown values)[p - 1]? = some OFF := by
  unfold Config.shown
  rw [Config.placeField_other (by simp) h1 (hp .s), Config.placeField_other (by simp) h1 (hp .m),
    Config.placeField_other (by simp) h1 (hp .h), List.getElem?_replicate_of_lt (by omega)]

end

/-! ## The steps -/

/-- A buffer of OFF packs to bytes of 0xFF (rule R105), for each of the three tube counts of rule R8. -/
theorem packBytes_replicate_OFF (c : Config) :
    packBytes (List.replicate c.par.n OFF) c.par.n = List.replicate ((c.par.n + 1) / 2) 0xFF#8 := by
  obtain ⟨hn, -⟩ := Config.parts c
  rcases hn with hn | hn | hn <;> rw [hn] <;> decide

section
variable (s : State)

theorem Machine.State.writeBackOrder_editH (hq : s.qSnap = .editH) : s.writeBackOrder = (.h, .m, .s) := by
  rw [State.writeBackOrder, hq]

theorem Machine.State.writeBackOrder_editM (hq : s.qSnap = .editM) : s.writeBackOrder = (.m, .h, .s) := by
  rw [State.writeBackOrder, hq]

theorem Machine.State.writeBackOrder_editS (hq : s.qSnap = .editS) : s.writeBackOrder = (.s, .h, .m) := by
  rw [State.writeBackOrder, hq]

/-- L_POWER takes its snapshot and chooses the path by it (rule R207). -/
theorem exec_lPower : exec .lPower s = .next
    { s with pSnap := s.powerState, seqPc := if s.powerState = .off then codeBlank else codeProg } := rfl

/-- L_PROG takes its snapshot and chooses the path by it (rule R210). -/
theorem exec_lProg : exec .lProg s = .next
    { s with qSnap := s.progState, seqPc := if s.progState = .notProg then codeLoadH else codeWb1 } := rfl

end

/-- Settles O31: each step is one write, of its own byte at its own offset. -/
theorem initStepsWriteTheTimeSource : Obligations.InitStepsWriteTheTimeSource :=
  ⟨⟨rfl, rfl, rfl, rfl⟩, fun _ _ h =>
    ⟨congrArg _ (h.rtcWriteThen ..), congrArg _ (h.rtcWriteThen ..), congrArg _ (h.rtcWriteThen ..),
      congrArg _ (h.rtcWriteThen ..)⟩⟩

/-- Settles O32: the draw of an access's outcome is true or false, and the three shared operations that access a collaborator
each take their failure's effect. -/
theorem collaboratorFailureRetriesOrAbandons : Obligations.CollaboratorFailureRetriesOrAbandons := by
  refine ⟨fun s => ?_, fun s s1 hcan hfails => ?_, fun s s1 h => ⟨fun i hi => ?_, fun i hi => ?_⟩⟩
  · cases hok : s.drawOk.1 with
    | true => exact .inl ⟨s.drawOk.2, accessSucceeds_iff.2 (Prod.ext hok rfl)⟩
    | false => exact .inr ⟨s.drawOk.2, accessFails_iff.2 (Prod.ext hok rfl)⟩
  · obtain ⟨hcan', -⟩ := hfails
    rw [hcan] at hcan'
    cases hcan'
  · simp only [List.mem_cons, List.not_mem_nil, or_false] at hi
    rcases hi with rfl | rfl | rfl | rfl <;> exact congrArg _ (h.rtcWriteThen ..)
  · simp only [List.mem_cons, List.not_mem_nil, or_false] at hi
    rcases hi with rfl | rfl | rfl | rfl | rfl | rfl | rfl | rfl
    · exact congrArg _ (h.packAndTransmit .blank)
    · exact congrArg _ (h.rtcLoadThen .h _)
    · exact congrArg _ (h.rtcLoadThen .m _)
    · exact congrArg _ (h.rtcLoadThen .s _)
    · exact congrArg _ (h.rtcWriteThen ..)
    · exact congrArg _ (h.rtcWriteThen ..)
    · exact congrArg _ (h.rtcWriteThen ..)
    · exact congrArg _ (h.packAndTransmit .tube)

/-- Settles O33, by the two snapshots' values. -/
theorem samplingStepsChooseThePath : Obligations.SamplingStepsChooseThePath :=
  ⟨⟨rfl, rfl⟩, fun s =>
    ⟨⟨_, exec_lPower s, rfl, fun hoff => if_pos hoff, fun hon => if_neg (by simp [hon])⟩,
      ⟨_, exec_lProg s, rfl, fun hnot => if_pos hnot, fun hediting => if_neg hediting⟩⟩⟩

/-- Settles O34: both steps call the operation of the micro-op. -/
theorem clearingStepsAreTheirMicroOp : Obligations.ClearingStepsAreTheirMicroOp :=
  ⟨⟨rfl, rfl⟩, fun _ =>
    ⟨⟨_, _, rfl, rfl, rfl, List.length_replicate, fun _ he => List.eq_of_mem_replicate he⟩,
      ⟨_, _, rfl, rfl, rfl, List.length_replicate, fun _ he => List.eq_of_mem_replicate he⟩⟩⟩

/-- Settles O35: the blank buffer is N times OFF, whose bytes are 0xFF. -/
theorem blankTransmitSendsAllOff : Obligations.BlankTransmitSendsAllOff := by
  refine ⟨rfl, fun s s1 h hlen hoff => ?_⟩
  have hbytes : packBytes (s.buf .blank) s.cfg.par.n = List.replicate ((s.cfg.par.n + 1) / 2) 0xFF#8 := by
    rw [State.buf_blank, List.eq_replicate_iff.2 ⟨hlen, hoff⟩]
    exact packBytes_replicate_OFF s.cfg
  rw [← hbytes]
  exact congrArg _ (h.packAndTransmit .blank)

/-- Settles O36: the transmitted bytes are PACK's, which meet the placement of rule R102. -/
theorem transmitSendsThePackedTubeBuffer : Obligations.TransmitSendsThePackedTubeBuffer :=
  ⟨rfl, fun _ _ h hlen => ⟨_, congrArg _ (h.packAndTransmit .tube), placedNibbles_packBytes hlen.ge⟩⟩

/-- Settles O37: the stored value is TO_PLAIN of the byte that the Time Source answers. -/
theorem loadStepsReadTheTimeSource : Obligations.LoadStepsReadTheTimeSource := by
  refine ⟨⟨rfl, rfl, rfl⟩, fun s s1 s2 b v h hb hv => ?_⟩
  obtain rfl : v = toPlain b := BitVec.eq_of_toNat_eq (hv.trans (toPlain_toNat b).symm)
  exact ⟨congrArg _ (h.rtcLoadThen hb .h _), congrArg _ (h.rtcLoadThen hb .m _), congrArg _ (h.rtcLoadThen hb .s _)⟩

/-- Settles O38: the three fields are those of the write-back order, whatever it is in NOT_PROG. -/
theorem writeBackFollowsTheOrder : Obligations.WriteBackFollowsTheOrder := by
  refine ⟨⟨rfl, rfl, rfl⟩, fun s _ h =>
    ⟨s.writeBackOrder.1, s.writeBackOrder.2.1, s.writeBackOrder.2.2, ?_, ?_, ?_, ?_⟩⟩
  · intro hq
    rw [s.writeBackOrder_editH hq]
    exact ⟨rfl, rfl, rfl⟩
  · intro hq
    rw [s.writeBackOrder_editM hq]
    exact ⟨rfl, rfl, rfl⟩
  · intro hq
    rw [s.writeBackOrder_editS hq]
    exact ⟨rfl, rfl, rfl⟩
  · rintro _ rfl
    exact ⟨congrArg _ (h.writeBack ..), congrArg _ (h.writeBack ..), congrArg _ (h.writeBack ..)⟩

/-- Settles O39: a mapped field's digits are at its two positions (`Config.placeField_digit`), and nowhere else
(`Config.placeField_other`). -/
theorem mapStepsPlaceDigits : Obligations.MapStepsPlaceDigits := by
  refine ⟨⟨rfl, rfl, rfl⟩, fun s f i next hi hlen => ?_⟩
  have hexec : exec i s = .next (s.mapField f next) := by
    rcases hi with ⟨rfl, rfl, rfl⟩ | ⟨rfl, rfl, rfl⟩ | ⟨rfl, rfl, rfl⟩ <;> rfl
  refine ⟨fun ht => hexec.trans (congrArg _ (State.mapField_unmapped s next ht)), fun tens ht => ?_⟩
  obtain ⟨_, ones, -, ho⟩ := Config.mapped_both ht
  refine ⟨ones, _, ho, hexec.trans (congrArg _ (State.mapField_eq s f next)), by rw [Config.placeField_length, hlen],
    fun p h1 => ?_⟩
  by_cases htens : p = tens
  · subst htens
    rw [if_pos rfl]
    exact Config.placeField_digit hlen ht
  · rw [if_neg htens]
    by_cases hones : p = ones
    · subst hones
      rw [if_pos rfl]
      exact Config.placeField_digit hlen ho
    · rw [if_neg hones]
      refine Config.placeField_other hlen h1 fun d hd => ?_
      cases d with
      | tens => exact htens (Option.some.inj (hd.symm.trans ht))
      | ones => exact hones (Option.some.inj (hd.symm.trans ho))

/-! ## Runs of the sequencer -/

theorem run_succ {M : Host.Core} {s t : M.State} (n : Nat) (h : M.step s = .next t) : M.run (n + 1) s = M.run n t := by
  simp only [Host.Core.run, h]

section
variable {s : State} {rest : List Turn} {n : Nat}

/-- A turn of the sequencer runs the step that stands in `seq_pc` (rule R200). -/
theorem run_sequencer {t : State} (i : Instr) (hpc : encode i = .stepCode s.seqPc)
    (hturns : s.turns = sequencerTurns (n + 1) ++ rest)
    (hx : exec i { s with turns := sequencerTurns n ++ rest } = .next t) : core.run (n + 1) s = core.run n t := by
  have hdec : decode (.stepCode s.seqPc) = .ok i := hpc ▸ decodeOfEncodeIsTheInstruction i
  obtain ⟨-, hrun, -⟩ := stepRunsTheDecodedInstruction s { s with turns := sequencerTurns n ++ rest } i
  exact run_succ (M := core) n ((hrun (State.nextTurn_cons s .sequencer _ hturns) hdec).trans hx)

/-- L_POWER and L_PROG with the power ON (rules R207, R210). -/
theorem run_samples (hpc : s.seqPc = codePower) (hpower : s.powerState = .on)
    (hturns : s.turns = sequencerTurns (n + 2) ++ rest) :
    core.run (n + 2) s = core.run n { s with
      turns := sequencerTurns n ++ rest, pSnap := .on, qSnap := s.progState,
      seqPc := if s.progState = .notProg then codeLoadH else codeWb1 } :=
  calc core.run (n + 2) s
    _ = core.run (n + 1) _ := run_sequencer .lPower (congrArg _ hpc.symm) hturns (exec_lPower _)
    _ = core.run n _ := run_sequencer .lProg (by simp [hpower]; rfl) rfl (exec_lProg _)
    _ = _ := by rw [hpower]

/-! Where accesses cannot fail, each kind of step is one fixed change of the state. -/

section
variable {f : Field} {next : BitVec 5}

theorem run_load {b : Byte} {bytes : List Byte} (i : Instr) (hi : ∀ u, exec i u = .next (u.rtcLoadThen f next))
    (hpc : encode i = .stepCode s.seqPc) (hcan : s.cfg.par.collabCanFail = false)
    (hturns : s.turns = sequencerTurns (n + 1) ++ rest) (hreads : s.reads = b :: bytes) :
    core.run (n + 1) s = core.run n (State.setField f (toPlain b) { s with
      turns := sequencerTurns n ++ rest, reads := bytes, seqPc := next,
      history := s.history ++ [.rtcRead (s.cfg.par.rtcOff f) b] }) :=
  run_sequencer i hpc hturns ((hi _).trans (congrArg _
    ((accessSucceeds_of_cannot_fail (s := { s with turns := sequencerTurns n ++ rest }) hcan).rtcLoadThen
      (.inl ⟨bytes, hreads, rfl⟩) f next)))

theorem run_writeBack (i : Instr) (hpc : encode i = .stepCode s.seqPc) (hcan : s.cfg.par.collabCanFail = false)
    (hturns : s.turns = sequencerTurns (n + 1) ++ rest)
    (hi : exec i { s with turns := sequencerTurns n ++ rest }
      = .next (State.writeBack f next { s with turns := sequencerTurns n ++ rest })) :
    core.run (n + 1) s = core.run n { s with
      turns := sequencerTurns n ++ rest, seqPc := next,
      history := s.history ++ [.rtcWrite (s.cfg.par.rtcOff f) (toReg (s.field f))] } :=
  run_sequencer i hpc hturns (hi.trans (congrArg _
    ((accessSucceeds_of_cannot_fail (s := { s with turns := sequencerTurns n ++ rest }) hcan).writeBack f next)))

theorem run_map (i : Instr) (hi : ∀ u, exec i u = .next (u.mapField f next)) (hpc : encode i = .stepCode s.seqPc)
    (hturns : s.turns = sequencerTurns (n + 1) ++ rest) :
    core.run (n + 1) s = core.run n { s with
      turns := sequencerTurns n ++ rest, tubeBuf := s.cfg.placeField f (s.field f) s.tubeBuf, seqPc := next } :=
  run_sequencer i hpc hturns ((hi _).trans (congrArg _ (State.mapField_eq _ f next)))

theorem run_transmit (i : Instr) (sel : BufSel) (hi : ∀ u, exec i u = .next (u.packAndTransmit sel))
    (hpc : encode i = .stepCode s.seqPc) (hcan : s.cfg.par.collabCanFail = false)
    (hturns : s.turns = sequencerTurns (n + 1) ++ rest) :
    core.run (n + 1) s = core.run n { s with
      turns := sequencerTurns n ++ rest, seqPc := codePower, lastTx := packBytes (s.buf sel) s.cfg.par.n,
      history := s.history ++ [.transmit (packBytes (s.buf sel) s.cfg.par.n) s.cfg.par.serialMsbFirst] } := by
  have h := accessSucceeds_of_cannot_fail (s := { s with turns := sequencerTurns n ++ rest }) hcan
  refine run_sequencer i hpc hturns ((hi _).trans (congrArg _ ((h.packAndTransmit sel).trans ?_)))
  cases sel <;> rfl

end

/-- The three loads (rules R211 to R213). -/
theorem run_loads {bh bm bs : Byte} {bytes : List Byte} (hpc : s.seqPc = codeLoadH)
    (hcan : s.cfg.par.collabCanFail = false) (hturns : s.turns = sequencerTurns (n + 3) ++ rest)
    (hreads : s.reads = bh :: bm :: bs :: bytes) :
    core.run (n + 3) s = core.run n { s with
      turns := sequencerTurns n ++ rest, reads := bytes, seqPc := codeClear,
      hours := toPlain bh, minutes := toPlain bm, seconds := toPlain bs,
      history := s.history ++ [.rtcRead s.cfg.par.rtcOffH bh, .rtcRead s.cfg.par.rtcOffM bm,
        .rtcRead s.cfg.par.rtcOffS bs] } :=
  calc core.run (n + 3) s
    _ = core.run (n + 2) _ := run_load .lLoadH (fun _ => rfl) (congrArg _ hpc.symm) hcan hturns hreads
    _ = core.run (n + 1) _ := run_load .lLoadM (fun _ => rfl) rfl hcan rfl rfl
    _ = core.run n _ := run_load .lLoadS (fun _ => rfl) rfl hcan rfl rfl
    _ = _ := by simp [State.setField, Parameters.rtcOff]

/-- The three write-backs (rules R214 to R217). -/
theorem run_writeBacks {f1 f2 f3 : Field} (hpc : s.seqPc = codeWb1) (hcan : s.cfg.par.collabCanFail = false)
    (hturns : s.turns = sequencerTurns (n + 3) ++ rest) (horder : s.writeBackOrder = (f1, f2, f3)) :
    core.run (n + 3) s = core.run n { s with
      turns := sequencerTurns n ++ rest, seqPc := codeClear,
      history := s.history ++ [.rtcWrite (s.cfg.par.rtcOff f1) (toReg (s.field f1)),
        .rtcWrite (s.cfg.par.rtcOff f2) (toReg (s.field f2)), .rtcWrite (s.cfg.par.rtcOff f3) (toReg (s.field f3))] } := by
  obtain ⟨rfl, rfl, rfl⟩ : s.writeBackOrder.1 = f1 ∧ s.writeBackOrder.2.1 = f2 ∧ s.writeBackOrder.2.2 = f3 := by
    simp [horder]
  calc core.run (n + 3) s
    _ = core.run (n + 2) _ := run_writeBack .lWb1 (congrArg _ hpc.symm) hcan hturns rfl
    _ = core.run (n + 1) _ := run_writeBack .lWb2 rfl hcan rfl rfl
    _ = core.run n _ := run_writeBack .lWb3 rfl hcan rfl rfl
    _ = _ := by simp only [List.append_assoc]; rfl

/-- The logical buffer is cleared, filled and transmitted, and L_POWER is next (rules R218 to R222). -/
theorem run_show (hpc : s.seqPc = codeClear) (hcan : s.cfg.par.collabCanFail = false)
    (hturns : s.turns = sequencerTurns (n + 5) ++ rest) :
    core.run (n + 5) s = core.run n { s with
      turns := sequencerTurns n ++ rest, seqPc := codePower, tubeBuf := s.cfg.shown s.field,
      lastTx := packBytes (s.cfg.shown s.field) s.cfg.par.n,
      history := s.history ++ [.transmit (packBytes (s.cfg.shown s.field) s.cfg.par.n) s.cfg.par.serialMsbFirst] } :=
  calc core.run (n + 5) s
    _ = core.run (n + 4) _ := run_sequencer .lClear (congrArg _ hpc.symm) hturns rfl
    _ = core.run (n + 3) _ := run_map .lMapH (fun _ => rfl) rfl rfl
    _ = core.run (n + 2) _ := run_map .lMapM (fun _ => rfl) rfl rfl
    _ = core.run (n + 1) _ := run_map .lMapS (fun _ => rfl) rfl rfl
    _ = core.run n _ := run_transmit .lTx .tube (fun _ => rfl) rfl hcan rfl

end

/-! ## The three iterations (rule R224) -/

/-- Settles O55: L_POWER, L_BLANK and L_BLANK_TX. -/
theorem poweredOffIteration : Obligations.PoweredOffIteration := by
  intro s rest hpc hpower hcan hturns
  calc core.run 3 s
    _ = core.run 2 _ := run_sequencer .lPower (congrArg _ hpc.symm) hturns (exec_lPower _)
    _ = core.run 1 _ := run_sequencer .lBlank (by simp [hpower]; rfl) rfl rfl
    _ = core.run 0 _ := run_transmit .lBlankTx .blank (fun _ => rfl) rfl hcan rfl
    _ = .next { s with
          turns := rest, seqPc := codePower, pSnap := s.powerState, blankBuf := List.replicate s.cfg.par.n OFF,
          lastTx := packBytes (List.replicate s.cfg.par.n OFF) s.cfg.par.n,
          history := s.history ++ [.transmit (packBytes (List.replicate s.cfg.par.n OFF) s.cfg.par.n)
            s.cfg.par.serialMsbFirst] } := rfl
    _ = _ := by rw [packBytes_replicate_OFF, hpower, hpc]; rfl

/-- The three fields' values, by the field. -/
def byField (h m s : Byte) : Field → Byte
  | .h => h
  | .m => m
  | .s => s

theorem Machine.State.field_eq_byField (s : State) : s.field = byField s.hours s.minutes s.seconds := by
  funext f
  cases f <;> rfl

/-- Settles O56: the samples, the loads, and the show of the fields that were loaded. -/
theorem loadingIteration : Obligations.LoadingIteration := by
  intro s rest bh bm bs bytes hpc hpower hprog hcan hturns hreads
  refine ⟨s.cfg.shown (byField (toPlain bh) (toPlain bm) (toPlain bs)), packBytes _ s.cfg.par.n, ?_,
    placedNibbles_packBytes Config.shown_length.ge, Config.shown_length, ?_, fun p => Config.shown_off⟩
  · calc core.run 10 s
      _ = core.run 8 _ := run_samples hpc hpower hturns
      _ = core.run 5 _ := run_loads (if_pos hprog) hcan rfl hreads
      _ = core.run 0 _ := run_show rfl hcan rfl
      _ = _ := by simp only [State.field_eq_byField, List.append_assoc, hprog, hpc]; rfl
  · rintro f v (⟨rfl, rfl⟩ | ⟨rfl, rfl⟩ | ⟨rfl, rfl⟩) <;>
      exact ⟨fun _ => Config.shown_digit, fun _ => Config.shown_digit⟩

/-- Settles O57: the samples, the write-backs in the order of the editing state, and the show of the fields, which no step of
this path writes. -/
theorem editingIteration : Obligations.EditingIteration := by
  intro s rest f1 f2 f3 hpc hpower hcan hturns hediting
  refine ⟨s.cfg.shown s.field, packBytes (s.cfg.shown s.field) s.cfg.par.n, ?_,
    placedNibbles_packBytes Config.shown_length.ge, Config.shown_length,
    fun f => ⟨fun _ => Config.shown_digit, fun _ => Config.shown_digit⟩, fun p => Config.shown_off⟩
  have hprog : s.progState ≠ .notProg := by
    rcases hediting with ⟨hq, -⟩ | ⟨hq, -⟩ | ⟨hq, -⟩ <;> simp [hq]
  have horder (u : State) (hu : u.qSnap = s.progState) : u.writeBackOrder = (f1, f2, f3) := by
    rcases hediting with ⟨hq, rfl, rfl, rfl⟩ | ⟨hq, rfl, rfl, rfl⟩ | ⟨hq, rfl, rfl, rfl⟩
    · exact u.writeBackOrder_editH (hu.trans hq)
    · exact u.writeBackOrder_editM (hu.trans hq)
    · exact u.writeBackOrder_editS (hu.trans hq)
  calc core.run 10 s
    _ = core.run 8 _ := run_samples hpc hpower hturns
    _ = core.run 5 _ := run_writeBacks (if_neg hprog) hcan rfl (horder _ rfl)
    _ = core.run 0 _ := run_show rfl hcan rfl
    _ = _ := by simp only [List.append_assoc, hpc]; rfl

/-! ## The run that never ends (rules R200 and R245) -/

/-- A legal word runs an instruction, and no instruction stops the block (rule R240). -/
theorem runWord_next_of_legal {c : PortWord} (hc : c.legal = true) (s : State) : ∃ t, runWord c s = .next t := by
  obtain ⟨i, hi⟩ := (decode_ok_iff_legal c).2 hc
  rw [runWord_of_decode hi]
  exact exec_is_next s i

/-- An illegal event word does not stop the block either: it is recorded (rule R243). -/
theorem runWord_event_next (w : BitVec 8) (s : State) : ∃ t, runWord (.event w) s = .next t := by
  cases hc : (PortWord.event w).legal with
  | true => exact runWord_next_of_legal hc s
  | false => exact ⟨_, runWord_of_illegal hc s⟩

/-- Progress: the next turn is the block's, and the sequencer never stands at a reserved code. -/
theorem Inv.step_next {s : State} (h : Inv s) : ∃ t, step s = .next t := by
  obtain ⟨hblocks, -⟩ := State.nextTurn_ok s h.turns
  unfold step
  simp only
  cases hturn : s.nextTurn.1 with
  | event w => exact runWord_event_next w _
  | sequencer =>
    obtain ⟨hcode, -⟩ := h.nextTurn.path
    exact runWord_next_of_legal (c := .stepCode _) (decide_eq_true hcode) _
  | reset => exact ⟨_, rfl⟩
  | microOp w =>
    rw [hturn] at hblocks
    cases hblocks

/-- Progress and `everyStepKeepsTheInvariant`, over any number of steps. -/
theorem Inv.run {s : State} (h : Inv s) (n : Nat) : ∃ t, core.run n s = .next t ∧ Inv t := by
  induction n generalizing s with
  | zero => exact ⟨s, rfl, h⟩
  | succ n ih =>
    obtain ⟨t, hstep⟩ := h.step_next
    obtain ⟨u, hrun, hu⟩ := ih (everyStepKeepsTheInvariant s t h hstep)
    exact ⟨u, (run_succ (M := core) n hstep).trans hrun, hu⟩

/-- Settles O53: the run's end is the state that `Inv.run` gives. -/
theorem theBlockNeverStops : Obligations.TheBlockNeverStops := by
  intro s n h
  obtain ⟨u, hrun, hu⟩ := h.run n
  refine ⟨⟨u, hrun⟩, fun t ht => ?_⟩
  cases hrun.symm.trans ht
  exact hu

end Sys2Proof

/-! PROOFS. Errors, and what the two agents keep from each other: 60_exceptions.md. First the error record and what an
event reads, then the statements: errors, event steps and the fail-safe. -/

namespace Sys2Proof.Machine

/-! ## The error record (rules R241 to R245) -/

theorem and_errFlagsAfter (c : Cause) (flags : BitVec 3) : flags &&& errFlagsAfter c flags = flags := by
  cases c <;> revert flags <;> decide

theorem errCauseAfter_of_ne_zero (c : Cause) {cause : BitVec 4} (h : cause ≠ 0#4) : errCauseAfter c cause = cause :=
  if_neg h

/-- An illegal event word on its turn is recorded, with nothing else changed but the turn (rule R243). -/
theorem step_of_illegal_event {s : State} {w : BitVec 8} {rest : List Turn} (hturns : s.turns = .event w :: rest)
    (hw : eventWordLegal w = false) : step s = .next ({ s with turns := rest }.raise .illegalEvent) := by
  simp only [step, State.nextTurn_cons s _ rest hturns]
  exact runWord_of_illegal (c := .event w) hw _

/-- A legal event word on its turn runs an event. -/
theorem step_of_legal_event {s : State} {w : BitVec 8} {rest : List Turn} (hturns : s.turns = .event w :: rest)
    (hw : eventWordLegal w = true) : ∃ i, i.isEvent = true ∧ step s = exec i { s with turns := rest } := by
  obtain ⟨i, hdec⟩ := (decode_ok_iff_legal (.event w)).2 hw
  refine ⟨i, isEvent_of_decodeEvent hdec, ?_⟩
  simp only [step, State.nextTurn_cons s _ rest hturns]
  exact runWord_of_decode hdec _

end Sys2Proof.Machine

namespace Sys2Proof.Claims

open Sys2Proof.Machine

/-! ## What an event reads (rules R24 and R248) -/

section
variable {s s' : State}

theorem SameShared.actPowerToggle (h : SameShared s s') : SameShared s.actPowerToggle s'.actPowerToggle := by
  obtain ⟨hpower, hrest⟩ := h
  exact ⟨congrArg flipPower hpower, hrest⟩

/-- The guard and the successor of a mode event are those of the shared power and programming state. -/
theorem SameShared.actCycleMode (h : SameShared s s') : SameShared s.actCycleMode s'.actCycleMode := by
  obtain ⟨hpower, hprog, hfields⟩ := h
  by_cases hguard : s.progState = .notProg ∧ s.powerState = .off
  · rw [State.actCycleMode_guarded hguard, State.actCycleMode_guarded (by rwa [hprog, hpower])]
    exact ⟨hpower, hprog, hfields⟩
  · rw [State.actCycleMode_unguarded hguard, State.actCycleMode_unguarded (by rwa [hprog, hpower])]
    exact ⟨hpower, congrArg nextProg hprog, hfields⟩

theorem SameShared.storeHms (h : SameShared s s') (x : Hms) : SameShared (s.storeHms x) (s'.storeHms x) := by
  obtain ⟨hpower, hprog, -⟩ := h
  exact ⟨hpower, hprog, rfl, rfl, rfl⟩

theorem SameShared.hms (h : SameShared s s') : s'.hms = s.hms := by
  obtain ⟨-, -, hhours, hminutes, hseconds⟩ := h
  rw [State.hms, hhours, hminutes, hseconds, State.hms]

/-- Each adjust stores the cascade of the shared time, in the shared programming state. -/
theorem SameShared.actAdjust (h : SameShared s s') :
    SameShared s.actAdjustPlus s'.actAdjustPlus ∧ SameShared s.actAdjustMinus s'.actAdjustMinus := by
  have ⟨_, hprog, _⟩ := h
  by_cases hq : s.progState = .notProg
  · obtain ⟨hplus, hminus⟩ := State.actAdjust_notProg s hq
    obtain ⟨hplus', hminus'⟩ := State.actAdjust_notProg s' (hprog.trans hq)
    rw [hplus, hplus', hminus, hminus']
    exact ⟨h, h⟩
  · obtain ⟨hplus, hminus⟩ := State.actAdjust_editing s hq
    obtain ⟨hplus', hminus'⟩ := State.actAdjust_editing s' (hprog ▸ hq)
    rw [hplus, hplus', hminus, hminus', hprog, h.hms]
    exact ⟨h.storeHms _, h.storeHms _⟩

/-- A button whose action keeps the shared states the same keeps them so at either level. -/
theorem SameShared.actAtLevel {act : State → State} (h : SameShared s s')
    (hact : SameShared (act s) (act s')) (level : Bool) :
    SameShared (s.actAtLevel level act) (s'.actAtLevel level act) := by
  cases level
  · exact hact
  · exact h

theorem SameShared.grpPc (h : SameShared s s') (plus minus mode : Bool) : SameShared
    (((s.actAtLevel plus State.actAdjustPlus).actAtLevel minus State.actAdjustMinus).actAtLevel mode State.actCycleMode)
    (((s'.actAtLevel plus State.actAdjustPlus).actAtLevel minus State.actAdjustMinus).actAtLevel mode
      State.actCycleMode) := by
  have hplus := h.actAtLevel h.actAdjust.1 plus
  have hminus := hplus.actAtLevel hplus.actAdjust.2 minus
  exact hminus.actAtLevel hminus.actCycleMode mode

end

/-! ## Who raises PackingError (rule R241) -/

theorem RaisesPackingError.isMicroOp {n : Nat} {i : Instr} (h : RaisesPackingError n i) : i.isMicroOp = true := by
  rcases h with ⟨_, _, _, rfl, -⟩ | ⟨_, _, rfl, -⟩ <;> rfl

end Sys2Proof.Claims

namespace Sys2Proof

open Sys2Proof.Machine Sys2Proof.Claims

/-! ## Errors -/

/-- Settles O7: the record that `State.raise` makes of IllegalEvent has flag 0b010 and cause 3. -/
theorem illegalEventIsRecordedAndIgnored : Obligations.IllegalEventIsRecordedAndIgnored :=
  fun _ _ _ => step_of_illegal_event

/-- Settles O9: no instruction stops the block, and none is a writer of the configuration. -/
theorem everyInstructionCompletesUnderItsConfiguration :
    Obligations.EveryInstructionCompletesUnderItsConfiguration := by
  intro i s
  obtain ⟨t, hx⟩ := exec_is_next s i
  exact ⟨t, hx, (exec_writesAsListed hx).cfg⟩

/-- The flags of `s` are set in `t`, and a cause that `s` has is the cause of `t` (rule R245). -/
def ErrorRecordKept (s t : State) : Prop :=
  s.errFlags &&& t.errFlags = s.errFlags ∧ (s.errCause ≠ 0#4 → t.errCause = s.errCause)

theorem errorRecordKept_of_same {s t : State} (hflags : t.errFlags = s.errFlags) (hcause : t.errCause = s.errCause) :
    ErrorRecordKept s t :=
  ⟨by rw [hflags, BitVec.and_self], fun _ => hcause⟩

theorem errorRecordKept_of_raised {s t : State} {c : Cause} (hflags : t.errFlags = errFlagsAfter c s.errFlags)
    (hcause : t.errCause = errCauseAfter c s.errCause) : ErrorRecordKept s t :=
  ⟨by rw [hflags, and_errFlagsAfter], fun hne => hcause.trans (errCauseAfter_of_ne_zero c hne)⟩

theorem exec_errorRecordKept {i : Instr} {s t : State} (hx : exec i s = .next t) : ErrorRecordKept s t := by
  rcases exec_errorRecord s i t hx with ⟨hflags, hcause⟩ | ⟨c, hflags, hcause⟩
  · exact errorRecordKept_of_same hflags hcause
  · exact errorRecordKept_of_raised hflags hcause

/-- Settles O42: along the cases of `step_cases`; taking the turn leaves the record alone. -/
theorem errorRecordIsSticky : Obligations.ErrorRecordIsSticky := by
  intro s t hreset hstep
  obtain ⟨ts, n, hturn⟩ := State.nextTurn_changes s
  rcases step_cases s with ⟨c, i, -, hs, -⟩ | ⟨w, -, -, hs⟩ | ⟨hisReset, -⟩ | ⟨r, hs⟩
  · rw [hs, hturn] at hstep
    exact exec_errorRecordKept (s := { s with turns := ts, draws := n }) hstep
  · rw [hs, hturn] at hstep
    cases hstep
    exact errorRecordKept_of_raised rfl rfl
  · exact absurd hisReset hreset
  · rw [hs] at hstep
    cases hstep

/-! ## Event steps (rules R246 and R248) -/

/-- Settles O20: a legal word runs an event, which writes the shared state alone; an illegal word is only recorded. -/
theorem eventStepsTouchOnlySharedStateAndErrors : Obligations.EventStepsTouchOnlySharedStateAndErrors := by
  intro s w rest hturns
  cases hw : eventWordLegal w with
  | true =>
    obtain ⟨i, hi, hs⟩ := step_of_legal_event hturns hw
    obtain ⟨t, hx⟩ := exec_is_next { s with turns := rest } i
    refine ⟨t, hs.trans hx, ?_⟩
    rw [exec_event_frame _ i t hi hx]
    exact ⟨⟨rfl, rfl, rfl, rfl, rfl, rfl, rfl, rfl, rfl⟩, ⟨rfl, rfl, rfl, rfl⟩, fun _ => ⟨rfl, rfl⟩, Bool.noConfusion⟩
  | false =>
    refine ⟨_, step_of_illegal_event hturns hw, ?_⟩
    exact ⟨⟨rfl, rfl, rfl, rfl, rfl, rfl, rfl, rfl, rfl⟩, ⟨rfl, rfl, rfl, rfl⟩, Bool.noConfusion,
      fun _ => ⟨rfl, rfl, rfl, rfl, rfl⟩⟩

/-- Settles O21, event by event: each is made of the three actions, and each action reads the shared state alone. -/
theorem eventsReadOnlySharedState : Obligations.EventsReadOnlySharedState := by
  intro i s s' t t' hi h hx hx'
  cases i with
  | pwrPc level => cases hx; cases hx'; exact h.actAtLevel h.actPowerToggle level
  | grpPc plus minus mode => cases hx; cases hx'; exact h.grpPc plus minus mode
  | pwrFall => cases hx; cases hx'; exact h.actPowerToggle
  | modeFall => cases hx; cases hx'; exact h.actCycleMode
  | plusFall => cases hx; cases hx'; exact h.actAdjust.1
  | minusFall => cases hx; cases hx'; exact h.actAdjust.2
  | _ => simp [Instr.isEvent] at hi

/-! ## The fail-safe (rule R244) -/

/-- A step of the sequencer is no micro-op, and so neither of the two instructions that raise PackingError. -/
theorem not_isMicroOp_of_isStep {i : Instr} (hi : i.isStep = true) : i.isMicroOp ≠ true := by
  intro hmicro
  simp [Instr.isStep, hmicro] at hi

/-- With either position out of range no digit is written, whichever of the two TB_SET_DIGIT fails. -/
theorem placeDigits_out_of_range (s : State) {tens ones : Nat} (v : Byte) (code : BitVec 5)
    (h : (tens < 1 ∨ tens > s.cfg.par.n) ∨ ones < 1 ∨ ones > s.cfg.par.n) :
    s.placeDigits tens ones v code = s.failSafe .posRange := by
  unfold State.placeDigits
  by_cases htens : tens < 1 ∨ tens > s.cfg.par.n
  · rw [State.setDigit_out_of_range s .tube tens _ htens]
  · have hones := h.resolve_left htens
    rw [State.setDigit_in_range s .tube tens _ (by omega)]
    simp only
    rw [State.setDigit_out_of_range _ .tube ones _ (by simpa using hones)]

/-- Settles O40: PACK_ERR and the port's answer have only micro-ops as writers; and the fail-safe goes to L_BLANK, 0x05. -/
theorem failSafeBlanksAndIsNeverTaken : Obligations.FailSafeBlanksAndIsNeverTaken := by
  refine ⟨fun i s t hi hx => ?_, fun s tens ones v code h => ?_⟩
  · have hmicro := not_isMicroOp_of_isStep hi
    have hwrites := exec_writesAsListed hx
    constructor
    · by_contra hne
      exact hmicro (hwrites.packErr hne).isMicroOp
    · by_contra hne
      exact hmicro (hwrites.portResult hne)
  · rw [placeDigits_out_of_range s v code (by omega)]
    rfl

end Sys2Proof

/-! PROOFS. Reset and hazards: 70_reset_and_hazards.md. First the event turn and boot as runs of the machine, from which
the statements about boot follow; then what a load makes of its field. -/

namespace Sys2Proof

open Sys2Proof.Machine Sys2Proof.Claims

/-! ## Boot (rules R272 and R274) -/

section
variable {s : State} {rest : List Turn} {n : Nat}

/-- With the power ON a mode event takes the successor (rules R165 and R166). -/
theorem exec_modeFall_of_on (hon : s.powerState = .on) :
    exec .modeFall s = .next { s with progState := nextProg s.progState } :=
  congrArg _ (State.actCycleMode_unguarded (by simp [hon]))

/-- A turn of the event agent runs the event that its word decodes to (rule R160). -/
theorem run_event {t : State} {w : BitVec 8} (i : Instr) (hdec : decode (.event w) = .ok i)
    (hturns : s.turns = .event w :: rest) (hx : exec i { s with turns := rest } = .next t) :
    core.run (n + 1) s = core.run n t := by
  obtain ⟨hrun, -, -⟩ := stepRunsTheDecodedInstruction s { s with turns := rest } i
  exact run_succ (M := core) n ((hrun w (State.nextTurn_cons s (.event w) rest hturns) hdec).trans hx)

/-- A step of initialisation, where accesses cannot fail, is one write (rules R203 to R206). -/
theorem run_init {off b : Byte} {next : BitVec 5} {onFail : State → State} (i : Instr)
    (hpc : encode i = .stepCode s.seqPc) (hcan : s.cfg.par.collabCanFail = false)
    (hturns : s.turns = sequencerTurns (n + 1) ++ rest)
    (hi : exec i { s with turns := sequencerTurns n ++ rest }
      = .next (State.rtcWriteThen off b next onFail { s with turns := sequencerTurns n ++ rest })) :
    core.run (n + 1) s = core.run n { s with
      turns := sequencerTurns n ++ rest, seqPc := next, history := s.history ++ [.rtcWrite off b] } :=
  run_sequencer i hpc hturns (hi.trans (congrArg _
    ((accessSucceeds_of_cannot_fail (s := { s with turns := sequencerTurns n ++ rest }) hcan).rtcWriteThen ..)))

/-- The control write, after which SEED_ON_RESET chooses the path (rule R203). -/
theorem run_initCtrl {next : BitVec 5} (hpc : s.seqPc = codeInitCtrl) (hcan : s.cfg.par.collabCanFail = false)
    (hnext : (if s.cfg.par.seedOnReset then codeInitSeedH else codePower) = next)
    (hturns : s.turns = sequencerTurns (n + 1) ++ rest) :
    core.run (n + 1) s = core.run n { s with
      turns := sequencerTurns n ++ rest, seqPc := next,
      history := s.history ++ [.rtcWrite s.cfg.par.rtcOffCtrl s.cfg.par.ctrl24hValue] } := by
  subst hnext
  exact run_init .initCtrl (congrArg _ hpc.symm) hcan hturns rfl

/-- The history of a boot that seeds (rule R272). -/
def Parameters.seedingBoot (p : Parameters) : List Access :=
  [.rtcWrite p.rtcOffCtrl p.ctrl24hValue, .rtcWrite p.rtcOffH p.seedH, .rtcWrite p.rtcOffM p.seedM,
    .rtcWrite p.rtcOffS p.seedS]

/-- A boot that seeds (rule R272). -/
theorem run_seedingBoot (hpc : s.seqPc = codeInitCtrl) (hcan : s.cfg.par.collabCanFail = false)
    (hseed : s.cfg.par.seedOnReset = true) (hturns : s.turns = sequencerTurns (n + 4) ++ rest) :
    core.run (n + 4) s = core.run n { s with
      turns := sequencerTurns n ++ rest, seqPc := codePower, history := s.history ++ s.cfg.par.seedingBoot } :=
  calc core.run (n + 4) s
    _ = core.run (n + 3) _ := run_initCtrl hpc hcan (if_pos hseed) hturns
    _ = core.run (n + 2) _ := run_init .initSeedH rfl hcan rfl rfl
    _ = core.run (n + 1) _ := run_init .initSeedM rfl hcan rfl rfl
    _ = core.run n _ := run_init .initSeedS rfl hcan rfl rfl
    _ = _ := by simp only [List.append_assoc]; rfl

end

/-- Settles O54: with SEED_ON_RESET boot is `run_seedingBoot`, and without it the control write alone. -/
theorem bootWritesControlThenSeeds : Obligations.BootWritesControlThenSeeds :=
  fun _ _ hcan =>
    ⟨fun hseed => ⟨_, run_seedingBoot rfl hcan hseed rfl, rfl, rfl⟩,
      fun hseed => ⟨_, run_initCtrl rfl hcan (if_neg (Bool.eq_false_iff.1 hseed)) rfl, rfl, rfl⟩⟩

/-- Settles O58: the event enters EDIT_H, boot is as without it, and the first iteration's samples choose the write-back of the
fields' reset values. -/
theorem eventDuringBootMakesTheFirstIterationWriteZeros :
    Obligations.EventDuringBootMakesTheFirstIterationWriteZeros := by
  intro c rest hcan hpower hseed
  have hzero : toReg 0#8 = 0#8 := by decide
  refine ⟨{ State.resetOf c with
    progState := .editH, pSnap := .on, qSnap := .editH, seqPc := codeClear, turns := rest,
    history := c.par.seedingBoot
      ++ [.rtcWrite c.par.rtcOffH 0#8, .rtcWrite c.par.rtcOffM 0#8, .rtcWrite c.par.rtcOffS 0#8] },
    ?_, rfl, rfl, rfl, rfl, rfl⟩
  calc core.run 10 { State.resetOf c with turns := .event 0x50#8 :: (sequencerTurns 9 ++ rest) }
    _ = core.run 9 _ := run_event .modeFall rfl rfl (exec_modeFall_of_on hpower)
    _ = core.run 5 _ := run_seedingBoot rfl hcan hseed rfl
    _ = core.run 3 _ := run_samples rfl hpower rfl
    _ = core.run 0 _ := run_writeBacks rfl hcan rfl (State.writeBackOrder_editH _ rfl)
    _ = _ := by simp only [State.field_eq_byField, State.resetOf, byField, hzero]; rfl

/-! ## The load overwrite (rule R275) -/

section
variable (s : State) (f : Field) (x : Byte)

/-- The draw of an access's outcome reads no field. -/
theorem Machine.State.drawOk_setField : (s.setField f x).drawOk = (s.drawOk.1, s.drawOk.2.setField f x) := by
  cases hcan : s.cfg.par.collabCanFail with
  | false =>
    rw [State.drawOk_cannot_fail s hcan]
    exact State.drawOk_cannot_fail _ (by rwa [State.setField_cfg])
  | true => cases hoks : s.accessOks <;> cases f <;> simp [State.drawOk, State.setField, hcan, hoks]

/-- The draw of the Time Source's byte reads no field. -/
theorem Machine.State.drawByte_setField : (s.setField f x).drawByte = (s.drawByte.1, s.drawByte.2.setField f x) := by
  cases hreads : s.reads <;> cases f <;> simp [State.drawByte, State.setField, hreads]

end

/-- A load whose access succeeds reads no field, and stores over its own. -/
theorem Claims.AccessSucceeds.rtcLoadThen_setField {s s1 : State} (h : AccessSucceeds s s1) (f : Field) (x : Byte)
    (code : BitVec 5) : (s.setField f x).rtcLoadThen f code = s.rtcLoadThen f code := by
  simp only [State.rtcLoadThen, State.drawOk_setField, accessSucceeds_iff.1 h, State.drawByte_setField,
    State.setField_cfg]
  cases f <;> rfl

/-- Settles O46: each load is the shared operation on its own field. -/
theorem loadOverwritesAnAdjust : Obligations.LoadOverwritesAnAdjust :=
  fun _ _ x h => ⟨congrArg Host.Outcome.next (h.rtcLoadThen_setField .h x _),
    congrArg Host.Outcome.next (h.rtcLoadThen_setField .m x _), congrArg Host.Outcome.next (h.rtcLoadThen_setField .s x _)⟩

end Sys2Proof
